-- ==== Sys2Proof/Word.lean ====
section
/-! DEFINITION. The word types of the data model (spec/00_scope.md R7, R9; spec/30_encoding.md R60 to R63). -/

namespace Sys2Proof

/-- DataWord: 16 bits, bit 0 the least significant; no bit pattern is invalid (R63). -/
abbrev DataWord := BitVec 16

/-- The check-bit vector: bit 4..0 = cb16, cb8, cb4, cb2, cb1 (R61). -/
abbrev CheckBits := BitVec 5

/-- The syndrome: 5 bits with the bit weights of the check-bit vector (R66). -/
abbrev Syndrome := BitVec 5

/-- The codeword: data in bits 0 to 15, check bits in 16 to 20, parity in 21 (R60). -/
abbrev Codeword := BitVec 22

/-- An address, never interpreted by the core (R47, D9: `Addr` is OPEN). Log entry 7. -/
abbrev Addr := Nat

/-- The number of a host variable h0, h1, ... (R72). -/
abbrev HostVar := Nat

/-- A raw word of `RAW_W` bits (R62), by its two fields: `cw` is bits 21..0, the only ones the core reads;
`high` is bits `RAW_W-1`..22 as an unsigned number. Log entry 1. -/
structure RawWord where
  cw   : Codeword
  high : Nat
  deriving DecidableEq, Repr

end Sys2Proof
end

