-- ==== Sys2Proof/Syntax.lean ====
section
/-! DEFINITION. The six operations of spec/opcode_table.json (spec/30_encoding.md R67). What the host drives and the
steps of its script are in Machine/HostSyntax.lean. -/

namespace Sys2Proof

/-- One constructor per row of the operation table, with the row's input word as its operands (R67). -/
inductive Instr where
  /-- PARITY21 (R102): the 21 summed bits. -/
  | parity21 (w : BitVec 21)
  /-- CHECKBITS (R111). -/
  | checkbits (data : DataWord)
  /-- ENCODE (R121): drive `enc_data`. -/
  | encode (data : DataWord)
  /-- SYNDROME (R130): the stored and the recomputed check-bit vector. -/
  | syndrome (stored recomputed : CheckBits)
  /-- SYNLOOKUP (R132). -/
  | synlookup (s : Syndrome)
  /-- DECODE (R141): drive `dec_raw`, all `RAW_W` bits of it. -/
  | decode (raw : RawWord)
  deriving DecidableEq, Repr

end Sys2Proof
end

