-- ==== Sys2Proof/Machine/HostSyntax.lean ====
section
/-! DEFINITION. What the host drives and samples, its expressions, and the steps of its script (spec/10_state.md R28,
spec/30_encoding.md R67, R72). -/

namespace Sys2Proof

/-- Which unit or port group the host drives: what selects an operation, there being no opcode field (R67). -/
inductive Op where
  | parity21 | checkbits | encode | syndrome | synlookup | decode
  deriving DecidableEq, Repr

/-- What the host drives: a unit or port group and the number put on its input (R9: every value is unsigned).
Log entry 6. -/
structure Drive where
  op    : Op
  value : Nat
  deriving DecidableEq, Repr

/-- The outputs a host step can sample: the core's output ports (R28) and the stand-alone units' outputs (R67). -/
inductive Port where
  | encCw | decData | decOk | decStatus | decParityErr | decSyndrome
  | parityP | parityWord | checkBits | unitSyndrome | lookupHit | lookupIndex
  deriving DecidableEq, Repr

/-- The host's expressions, as the programs of spec/95_test_vectors.md section 3 use them: literals, host
variables, sampled outputs, and the host's own arithmetic and conditions (a truth value is 1 or 0, R10). -/
inductive HExpr where
  | const (n : Nat)
  | var (h : HostVar)
  | port (p : Port)
  | add (a b : HExpr)
  | bor (a b : HExpr)
  | shl (a b : HExpr)
  | eq (a b : HExpr)
  | lt (a b : HExpr)
  deriving DecidableEq, Repr

/-- One numbered step of a host script (R72). -/
inductive HostStep where
  /-- `ENC d -> h` is `drive .encode d (some h)`, `DEC r` is `drive .decode r none`; the other operations evaluate
  an internal unit on its own (log entry 4). `dst` receives the step's result. -/
  | drive (op : Op) (value : HExpr) (dst : Option HostVar)
  /-- `ST a, v`. -/
  | store (a v : HExpr)
  /-- `LD a -> h`. -/
  | load (a : HExpr) (dst : HostVar)
  /-- `FLIP a, m`. -/
  | flip (a m : HExpr)
  /-- `IF cond GOTO n`; what `n` counts is log entry 24, GOTO 0 and which values hold are log entry 25. -/
  | ifGoto (cond : HExpr) (n : Nat)
  /-- A host-only step such as `h2 <- h2 + 1` (programs P2 and P3). -/
  | assign (h : HostVar) (e : HExpr)
  /-- `HALT`. -/
  | halt
  deriving DecidableEq, Repr

end Sys2Proof
end

