-- ==== Sys2Proof/Config.lean ====
section
/-! DEFINITION. What an implementation fixes and the spec leaves open, and the free values
(spec/00_scope.md R7, R11; spec/93_implementation_defined.md I1 to I7). An `opaque` constant has no body: nothing
can be proved of its value. -/

namespace Sys2Proof.Config

/-- `RAW_W - 22`: how many bits a raw word has above the codeword. `RAW_W` is OPEN, any integer >= 22 (R7, D3). -/
opaque rawHighW : Nat

/-- `RAW_W`, the raw word's width (R7). -/
def rawW : Nat := 22 + rawHighW

/-- `FLIP_BOUND`, the largest number of low-22 bits a load may invert (R7, R44). -/
def flipBound : Nat := 2

/-- `uncorr_data`: the free draw on `dec_data` when `dec_ok = 0` (R147, D5, I1). Log entry 2. -/
opaque uncorrData : Nat → DataWord

/-- The free draw from which a load's mask of bits 0 to 21 is taken, before the bound (R44, D10, I4). Log entry 8. -/
opaque flipMask : Nat → Codeword

/-- The free draw of a load's mask above bit 21, cut to `RAW_W` bits where it is used (R43, I3). Log entry 8. -/
opaque highMask : Nat → Nat

/-- The free draw of bits 0 to 21 of a load at a never-stored address (R45, D11, I5). Log entry 9. -/
opaque unwrittenWord : Nat → Codeword

/-- What a host reads that samples an output before its input is driven: any value (R180, I7). Log entry 3. -/
opaque undriven : Port → Nat → Nat

/-- What stands on an input that is driven with a number of more bits than it has: the bits of any number, as many as the
input has. The spec states no value. Log entry 14. -/
opaque wideDrive : Op → Nat → Nat

/-- What an unset host variable reads as: any value. Log entry 13. -/
opaque unsetVar : HostVar → Nat → Nat

end Sys2Proof.Config
end

