-- ==== Sys2Proof/WellFormed.lean ====
section
/-! DEFINITION. Well-formed operations and scripts. Every input of the right width is legal (spec/30_encoding.md R69);
what is left to check is that a raw word has no bit above `RAW_W - 1` (R62) and that a script's GOTO names one of its
steps (R72). -/

namespace Sys2Proof

/-- A raw word has `RAW_W` bits (R62): nothing stands above bit `RAW_W - 1`. (The first disjunct is an instance of the
second; it lets a word without high bits be recognised whatever `RAW_W` is.) -/
def RawWord.fits (r : RawWord) : Bool :=
  r.high == 0 || decide (r.high < 2 ^ Config.rawHighW)

/-- An operation is well formed when its input is one its port can carry (R28, R69). -/
def Instr.wellFormed : Instr → Bool
  | .parity21 _ => true
  | .checkbits _ => true
  | .encode _ => true
  | .syndrome _ _ => true
  | .synlookup _ => true
  | .decode raw => raw.fits

/-- A step of a script of `len` steps: its GOTO continues at a step of the script, numbered from 1 (R72). -/
def HostStep.wellFormed (len : Nat) : HostStep → Bool
  | .ifGoto _ n => decide (1 ≤ n) && decide (n ≤ len)
  | .drive _ _ _ => true
  | .store _ _ => true
  | .load _ _ => true
  | .flip _ _ => true
  | .assign _ _ => true
  | .halt => true

/-- A host script is well formed when each of its steps is (R72). -/
def scriptWellFormed (script : List HostStep) : Bool :=
  script.all (HostStep.wellFormed script.length)

end Sys2Proof
end

