-- ==== Sys2Proof/Decode.lean ====
section
/-! DEFINITION. From what the host drives to the operation it selects, and back. There is no opcode field: the driven
unit or port group selects the operation and the driven number is its input word, bit 0 the least significant
(spec/30_encoding.md R67, R9; the patterns of spec/opcode_table.json). Log entry 6. -/

namespace Sys2Proof

/-- Why a drive's number is no input word. The host's step runs all the same (`drivenInstr`): log entry 14. -/
inductive DecodeError where
  /-- The number does not fit the input port (R28, D21: the port's width enforces the domain). -/
  | tooWide (op : Op) (value : Nat)
  deriving DecidableEq, Repr

/-- The number of input bits the operation table gives the row. -/
def Op.width : Op → Nat
  | .parity21 => 21
  | .checkbits => 16
  | .encode => 16
  | .syndrome => 10
  | .synlookup => 5
  | .decode => 22

/-- An unsigned number as a raw word: bits 21..0 and the bits above (R62). -/
def RawWord.ofNat (n : Nat) : RawWord :=
  { cw := BitVec.ofNat 22 n, high := n / 2 ^ 22 }

/-- A raw word as an unsigned number (R62). -/
def RawWord.toNat (r : RawWord) : Nat :=
  r.high * 2 ^ 22 + r.cw.toNat

/-- The operation a drive selects, by an input word. Total; a number that is no word of the input is rejected by name.
PARITY21 reads bits 0 to 20 of a word of any width and ignores the others (R102). DECODE takes a raw word of
`RAW_W` bits (R140); every other input has exactly its row's bits. -/
def decode (d : Drive) : Except DecodeError Instr :=
  match d.op with
  | .parity21 => .ok (.parity21 (BitVec.ofNat 21 d.value))
  | .checkbits =>
    if d.value < 2 ^ 16 then .ok (.checkbits (BitVec.ofNat 16 d.value)) else .error (.tooWide d.op d.value)
  | .encode =>
    if d.value < 2 ^ 16 then .ok (.encode (BitVec.ofNat 16 d.value)) else .error (.tooWide d.op d.value)
  | .syndrome =>
    if d.value < 2 ^ 10 then
      .ok (.syndrome (BitVec.ofNat 5 (d.value / 2 ^ 5)) (BitVec.ofNat 5 d.value))
    else .error (.tooWide d.op d.value)
  | .synlookup =>
    if d.value < 2 ^ 5 then .ok (.synlookup (BitVec.ofNat 5 d.value)) else .error (.tooWide d.op d.value)
  | .decode =>
    if (RawWord.ofNat d.value).fits then .ok (.decode (RawWord.ofNat d.value))
    else .error (.tooWide d.op d.value)

/-- What the host drives to select an operation: the input patterns of spec/opcode_table.json, SYNDROME's being the
stored vector above the recomputed one (`sssssrrrrr`). -/
def encode : Instr → Drive
  | .parity21 w => { op := .parity21, value := w.toNat }
  | .checkbits data => { op := .checkbits, value := data.toNat }
  | .encode data => { op := .encode, value := data.toNat }
  | .syndrome stored recomputed => { op := .syndrome, value := stored.toNat * 2 ^ 5 + recomputed.toNat }
  | .synlookup s => { op := .synlookup, value := s.toNat }
  | .decode raw => { op := .decode, value := raw.toNat }

/-- The operation a word of `nbits` bits is taken to drive when nothing but its width is known. The table's rows have no
fixed bits, so the width alone can tell them apart, and rows of one width cannot be told apart: 16 bits are taken as
`enc_data` and 22 to 24 as `dec_raw`, the two ports of the core's boundary (R28). Log entry 6. -/
def opOfWidth : Nat → Option Op
  | 5 => some .synlookup
  | 8 => some .synlookup
  | 10 => some .syndrome
  | 16 => some .encode
  | 21 => some .parity21
  | 22 => some .decode
  | 23 => some .decode
  | 24 => some .decode
  | _ => none

/-- What a word of the operation table decodes to (see `opOfWidth`). -/
def decodeTableWord (nbits w : Nat) : Option Instr :=
  match opOfWidth nbits with
  | none => none
  | some op =>
    match decode { op := op, value := w } with
    | .ok i => some i
    | .error _ => none

end Sys2Proof
end

