-- ==== Sys2Proof/Machine/State.lean ====
section
/-! DEFINITION. The state (spec/10_state.md): the ports of the two agents, the nets of the stand-alone units, and the
host's and the collaborator's state the core's guarantees are stated against (spec/20_memory.md R40 to R45,
spec/30_encoding.md R72). The core itself stores nothing (R20, R23, R24, R29, R31): its outputs are functions of its
current inputs, which `Safety.lean` states as an invariant. -/

namespace Sys2Proof.Machine

/-- `dec_status`, the four outcomes of R68. -/
inductive DecStatus where
  | noError | correctedData | redundancyError | uncorrectable
  deriving DecidableEq, Repr

/-- The Encoder's port group once `enc_data` is driven (R28): `enc_data` and `enc_cw`. -/
structure EncPorts where
  data : DataWord
  cw   : Codeword
  deriving DecidableEq, Repr

/-- The Decoder's port group once `dec_raw` is driven (R28): `dec_raw`, `dec_data`, `dec_ok`, `dec_status`,
`dec_parity_err`, `dec_syndrome`. -/
structure DecPorts where
  raw       : RawWord
  data      : DataWord
  ok        : Bool
  status    : DecStatus
  parityErr : Bool
  syndrome  : Syndrome
  deriving DecidableEq, Repr

/-- The nets of a Parity Unit evaluated on its own (R102). Log entry 4. -/
structure ParityNets where
  w     : BitVec 21
  p     : Bool
  pword : Codeword
  deriving DecidableEq, Repr

/-- The nets of a Check-bit Unit evaluated on its own (R111). Log entry 4. -/
structure CheckBitNets where
  data : DataWord
  cbv  : CheckBits
  deriving DecidableEq, Repr

/-- The nets of a syndrome generator evaluated on its own (R130). Log entry 4. -/
structure SyndromeNets where
  stored     : CheckBits
  recomputed : CheckBits
  syndrome   : Syndrome
  deriving DecidableEq, Repr

/-- The nets of a lookup table evaluated on its own (R132). Log entry 4. -/
structure LookupNets where
  s     : Syndrome
  hit   : Bool
  index : BitVec 4
  deriving DecidableEq, Repr

/-- A finite map from numbers, as a list of pairs whose keys rise strictly. -/
abbrev Table (α : Type) := List (Nat × α)

/-- The canonical form: keys strictly rising, so equal maps are equal lists. -/
abbrev Table.wf {α : Type} (t : Table α) : Prop := t.Pairwise (fun x y => x.1 < y.1)

/-- The collaborator's raw memory: one raw word per address that a store has written (R41, R44, R46). An unlisted
address is one that no store has written (R45). Log entry 7. -/
abbrev Memory := Table RawWord

/-- The memory's canonical form. An unlisted address holds no word, so no entry can equal what one reads as. -/
abbrev Memory.wf (m : Memory) : Prop := Table.wf m

/-- The machine: the core's ports, the units' nets, the collaborator's memory, the host and its script. A port group or
a unit that has never been driven is `none`: "a model gives them no value" (R180). Log entry 3. -/
structure State where
  /-- The Encoder's ports (R28). -/
  enc          : Option EncPorts
  /-- The Decoder's ports (R28). -/
  dec          : Option DecPorts
  /-- The Parity Unit on its own (R102). -/
  parityUnit   : Option ParityNets
  /-- The Check-bit Unit on its own (R111). -/
  checkBitUnit : Option CheckBitNets
  /-- The syndrome generator on its own (R130). -/
  syndromeUnit : Option SyndromeNets
  /-- The lookup table on its own (R132). -/
  lookupUnit   : Option LookupNets
  /-- `M`, the collaborator's memory (R44). -/
  mem          : Memory
  /-- The host's script, pseudo-steps expanded (log entry 24): step `n` of R72 stands at index `n - 1`. Log entry 12. -/
  script       : List HostStep
  /-- The index in `script` of the host's next step. Log entry 12. -/
  hpc          : Nat
  /-- The host variables that have been set (R72). Log entry 13. -/
  vars         : Table Nat
  /-- The model's own counter: the number of the next free value (R11 `draw`). Log entry 2. -/
  draws        : Nat
  deriving DecidableEq, Repr

/-- The machine stops with a fault. There is none: "The core raises no exception and takes no trap" (R160); an
uncorrectable word is a result (R161). Safe: no behaviour of the hardware is lost. -/
inductive Fault where
  deriving DecidableEq, Repr

/-- A step that has no meaning. There is none: every operation has one, and every step answers a next state. -/
inductive Refusal where
  /-- An operation without a meaning yet (raised by `exec`; no operation is in this case). Safe. -/
  | notModelled (mnemonic : String)
  deriving DecidableEq, Repr

/-- The machine before anything is driven (R32, R180): no port group and no unit has been driven, no address has been
written and no host variable set (spec/95_test_vectors.md section 3), no script is loaded (log entry 12); `draws` is the
model's own (DESIGN CHOICE, log entry 2). -/
def State.reset : State :=
  { enc := none, dec := none
    parityUnit := none, checkBitUnit := none, syndromeUnit := none, lookupUnit := none
    mem := [], script := [], hpc := 0, vars := [], draws := 0 }

end Sys2Proof.Machine
end

