-- ==== Sys2Proof/Machine/Ops.lean ====
section
/-! DEFINITION. The named operations: XOR sums and counts, the constant tables, the collaborator's memory, the host's
variables, and the updates of one part of the state. The spec describes no exception entry and no return (R160, R166,
R167), so there is none here. -/

namespace Sys2Proof.Machine

/-! ### XOR sums and counts (R10, R100 to R102) -/

/-- `XOR_{i in 0..n-1} v[i]`; 0 over the empty set; a bit beyond the width reads as 0 (R10, R101, D18). -/
def parityBit {w : Nat} (v : BitVec w) : Nat → Bool
  | 0 => false
  | n + 1 => parityBit v n ^^ v.getLsbD n

/-- `computeParity(word, n)`: the parity of bits 0 to n-1, placed at bit `n` (R101). -/
def computeParity {w : Nat} (word : BitVec w) (n : Nat) : BitVec (n + 1) :=
  (BitVec.ofBool (parityBit word n)).setWidth (n + 1) <<< n

/-- `PARITY21`'s 1-bit output `p` (R102): bits 21 and above of the word are not read. -/
def parity21 {w : Nat} (word : BitVec w) : Bool := parityBit word 21

/-- `PARITY21`'s 22-bit output `pword`, the parity placed at bit 21 (R102). -/
def parity21Word {w : Nat} (word : BitVec w) : Codeword := computeParity word 21

/-- How many of bits 0 to n-1 are 1. -/
def countOnes {w : Nat} (v : BitVec w) : Nat → Nat
  | 0 => 0
  | n + 1 => countOnes v n + (v.getLsbD n).toNat

/-- `popcount(v)` (R10). -/
def popcount {w : Nat} (v : BitVec w) : Nat := countOnes v w

/-! ### The constant tables (R25 to R27) -/

/-- `COVER`, the five covering masks, index `k` for check bit cb`2^k` (R25). cb1's set is without data bit 7
(spec/90_conflicts.md C1). Log entry 5. -/
def COVER : Vector DataWord 5 := #v[0xAD5B, 0x366D, 0xC78E, 0x07F0, 0xF800]

/-- `SYNTAB[0..15]` (R26): a hit is `(true, index)`, a miss `(false, 0)` (D24, log entry 16). -/
def SYNTAB_low : List (Bool × BitVec 4) :=
  [(false, 0), (false, 0), (false, 0), (true, 0), (false, 0), (true, 1), (true, 2), (true, 3),
   (false, 0), (true, 4), (true, 5), (true, 6), (true, 7), (true, 8), (true, 9), (true, 10)]

/-- `SYNTAB[16..31]` (R26). -/
def SYNTAB_high : List (Bool × BitVec 4) :=
  [(false, 0), (true, 11), (true, 12), (true, 13), (true, 14), (true, 15), (false, 0), (false, 0),
   (false, 0), (false, 0), (false, 0), (false, 0), (false, 0), (false, 0), (false, 0), (false, 0)]

/-- `SYNTAB`, 32 entries indexed by the syndrome (R26). -/
def SYNTAB : List (Bool × BitVec 4) := SYNTAB_low ++ SYNTAB_high

/-! ### Maps in canonical form: the collaborator's memory and the host's variables -/

/-- What the map holds at a key; `none` where nothing is listed. -/
def Table.read {α : Type} : Table α → Nat → Option α
  | [], _ => none
  | (a, v) :: rest, k => if k = a then some v else Table.read rest k

/-- Set the value at a key, keeping the keys strictly rising. -/
def Table.write {α : Type} : Table α → Nat → α → Table α
  | [], k, v => [(k, v)]
  | (a, u) :: rest, k, v =>
    if k < a then (k, v) :: (a, u) :: rest
    else if k = a then (k, v) :: rest
    else (a, u) :: Table.write rest k v

/-! ### Updates of one part of the state -/

/-- The Encoder's ports take new values. -/
def State.setEnc (s : State) (p : EncPorts) : State := { s with enc := some p }

/-- The Decoder's ports take new values. -/
def State.setDec (s : State) (p : DecPorts) : State := { s with dec := some p }

/-- The stand-alone Parity Unit's nets take new values. -/
def State.setParityUnit (s : State) (n : ParityNets) : State := { s with parityUnit := some n }

/-- The stand-alone Check-bit Unit's nets take new values. -/
def State.setCheckBitUnit (s : State) (n : CheckBitNets) : State := { s with checkBitUnit := some n }

/-- The stand-alone syndrome generator's nets take new values. -/
def State.setSyndromeUnit (s : State) (n : SyndromeNets) : State := { s with syndromeUnit := some n }

/-- The stand-alone lookup table's nets take new values. -/
def State.setLookupUnit (s : State) (n : LookupNets) : State := { s with lookupUnit := some n }

/-- The collaborator's memory changes. -/
def State.setMem (s : State) (m : Memory) : State := { s with mem := m }

/-- A host variable is set (R72). -/
def State.setVar (s : State) (h : HostVar) (n : Nat) : State := { s with vars := Table.write s.vars h n }

/-- One free value has been used: the next draw is a fresh one (R11). -/
def State.useDraw (s : State) : State := { s with draws := s.draws + 1 }

/-- The host goes on at index `n` of its script. -/
def State.goto (s : State) (n : Nat) : State := { s with hpc := n }

/-- The host goes on at the next step of its script, and what it draws there is fresh. -/
def State.advance (s : State) : State := (s.goto (s.hpc + 1)).useDraw

end Sys2Proof.Machine
end

