-- ==== Sys2Proof/Machine/Operands.lean ====
section
/-! DEFINITION. Fields and formats (spec/30_encoding.md R60 to R65), the raw words of a load (spec/20_memory.md R43 to
R45), and the host's expressions (spec/30_encoding.md R72). -/

namespace Sys2Proof.Machine

/-! ### Field extraction and assembly -/

/-- `stored_data := raw[15:0]` (R65). -/
def storedData (cw : Codeword) : DataWord := cw.extractLsb' 0 16

/-- `stored_cbv := raw[20:16]`, masked to 5 bits (R65). -/
def storedCheckBits (cw : Codeword) : CheckBits := cw.extractLsb' 16 5

/-- `stored_parity := raw[21]` (R65). -/
def storedParity (cw : Codeword) : Bool := cw.getLsbD 21

/-- `(cb16<<4)|(cb8<<3)|(cb4<<2)|(cb2<<1)|cb1` (R61). -/
def packCheckBits (cb16 cb8 cb4 cb2 cb1 : Bool) : CheckBits :=
  (BitVec.ofBool cb16).setWidth 5 <<< 4 ||| (BitVec.ofBool cb8).setWidth 5 <<< 3 |||
    (BitVec.ofBool cb4).setWidth 5 <<< 2 ||| (BitVec.ofBool cb2).setWidth 5 <<< 1 ||| (BitVec.ofBool cb1).setWidth 5

/-- `partial := (zext_21(cbv) << 16) | zext_21(data)` (R64). -/
def assemblePartial (cbv : CheckBits) (data : DataWord) : BitVec 21 :=
  cbv.setWidth 21 <<< 16 ||| data.setWidth 21

/-- `codeword := zext_22(partial) | pword` (R64). -/
def assembleCodeword (part : BitVec 21) (pword : Codeword) : Codeword := part.setWidth 22 ||| pword

/-! ### Raw words -/

/-- A number of bits above the codeword, cut to the `RAW_W - 22` bits a raw word has there (R62). -/
def cutHigh (n : Nat) : Nat := n % 2 ^ Config.rawHighW

/-- `zext_RAW_W(v[21:0])`: what the host's store puts in memory (R40, R41, R43). Log entry 10. -/
def zextRaw (cw : Codeword) : RawWord := { cw := cw, high := 0 }

/-- `a ^ m` on raw words (R44); a mask has no bit above `RAW_W - 1`. -/
def xorRaw (a m : RawWord) : RawWord :=
  { cw := a.cw ^^^ m.cw, high := cutHigh (a.high ^^^ m.high) }

/-- A free draw of bits 0 to 21 under the bound: every mask with at most `FLIP_BOUND` ones is a possible value, and
no other is (R44). -/
def boundMask (m : Codeword) : Codeword := if popcount m ≤ Config.flipBound then m else 0

/-- The `n`-th load's mask (R44): bits 0 to 21 under the bound, the higher bits free (R43). Log entry 8. -/
def loadMask (n : Nat) : RawWord :=
  { cw := boundMask (Config.flipMask n), high := cutHigh (Config.highMask n) }

/-- What the `n`-th load returns at an address no store has written: a free `RAW_W`-bit draw (R45). Log entry 9. -/
def unwrittenRaw (n : Nat) : RawWord :=
  { cw := Config.unwrittenWord n, high := cutHigh (Config.highMask n) }

/-- `MemRead(a)` as the `n`-th draw of the run (R44, R45). -/
def loadWord (m : Memory) (a : Addr) (n : Nat) : RawWord :=
  match Table.read m a with
  | some w => xorRaw w (loadMask n)
  | none => unwrittenRaw n

/-! ### What the host can sample -/

/-- The code on `dec_status[1:0]` (R68). -/
def DecStatus.code : DecStatus → BitVec 2
  | .noError => 0b00
  | .correctedData => 0b01
  | .redundancyError => 0b10
  | .uncorrectable => 0b11

/-- The width of an output (R28, R102, R111, R130, R132). -/
def Port.width : Port → Nat
  | .encCw => 22
  | .decData => 16
  | .decOk => 1
  | .decStatus => 2
  | .decParityErr => 1
  | .decSyndrome => 5
  | .parityP => 1
  | .parityWord => 22
  | .checkBits => 5
  | .unitSyndrome => 5
  | .lookupHit => 1
  | .lookupIndex => 4

/-- An output's value; none before its input is driven (R180). -/
def State.output (s : State) : Port → Option Nat
  | .encCw => s.enc.map (fun p => p.cw.toNat)
  | .decData => s.dec.map (fun p => p.data.toNat)
  | .decOk => s.dec.map (fun p => p.ok.toNat)
  | .decStatus => s.dec.map (fun p => p.status.code.toNat)
  | .decParityErr => s.dec.map (fun p => p.parityErr.toNat)
  | .decSyndrome => s.dec.map (fun p => p.syndrome.toNat)
  | .parityP => s.parityUnit.map (fun n => n.p.toNat)
  | .parityWord => s.parityUnit.map (fun n => n.pword.toNat)
  | .checkBits => s.checkBitUnit.map (fun n => n.cbv.toNat)
  | .unitSyndrome => s.syndromeUnit.map (fun n => n.syndrome.toNat)
  | .lookupHit => s.lookupUnit.map (fun n => n.hit.toNat)
  | .lookupIndex => s.lookupUnit.map (fun n => n.index.toNat)

/-- What the host reads on an output: its value, and before its input is driven any value of its width (R180, I7).
Log entry 3. -/
def State.sample (s : State) (p : Port) : Nat :=
  match s.output p with
  | some n => n
  | none => Config.undriven p s.draws % 2 ^ Port.width p

/-- What a host variable reads as: its value, and before it is set any value. Log entry 13. -/
def State.readVar (s : State) (h : HostVar) : Nat :=
  match Table.read s.vars h with
  | some n => n
  | none => Config.unsetVar h s.draws

/-- The value of a host expression (R9: unsigned; R10: `<<` shifts zeros in, `|` is bitwise OR, `==` gives 1 or 0). -/
def evalExpr (s : State) : HExpr → Nat
  | .const n => n
  | .var h => s.readVar h
  | .port p => s.sample p
  | .add a b => evalExpr s a + evalExpr s b
  | .bor a b => evalExpr s a ||| evalExpr s b
  | .shl a b => evalExpr s a <<< evalExpr s b
  | .eq a b => (decide (evalExpr s a = evalExpr s b)).toNat
  | .lt a b => (decide (evalExpr s a < evalExpr s b)).toNat

end Sys2Proof.Machine
end

