-- ==== Sys2Proof/Machine/Collaborator.lean ====
section
/-! DEFINITION. The raw-memory collaborator as the host reaches it: store, load and the harness's explicit inversion
(spec/20_memory.md R40 to R45, spec/30_encoding.md R72). -/

namespace Sys2Proof.Machine

/-- `ST a, v`: the word at `a` becomes `v[21:0]`, zero above (R40, R41, R43). Log entry 10. -/
def storeRaw (a : Addr) (v : Nat) (s : State) : State :=
  s.setMem (Table.write s.mem a (zextRaw (BitVec.ofNat 22 v)))

/-- `LD a -> h`: the host variable takes the loaded word; a load changes nothing in memory (R42, R44, R45). The
mask is a fresh draw at each load. -/
def loadRaw (a : Addr) (h : HostVar) (s : State) : State :=
  (s.setVar h (loadWord s.mem a s.draws).toNat).useDraw

/-- `FLIP a, m`: `M[a] <- M[a] ^ m` (R72). An address that no store has written holds no word to invert: it stays a
free draw. Log entry 11. -/
def flipRaw (a : Addr) (m : Nat) (s : State) : State :=
  match Table.read s.mem a with
  | some w => s.setMem (Table.write s.mem a (xorRaw w (RawWord.ofNat m)))
  | none => s

end Sys2Proof.Machine
end

