-- ==== Sys2Proof/Machine/Flags.lean ====
section
/-! DEFINITION. The units' functions and the Decoder's flag outputs (spec/41_checkbits.md, spec/43_syndrome.md,
spec/44_decoder.md R142 to R146). -/

namespace Sys2Proof.Machine

/-- One check bit: the XOR of the data bits in the covering mask (R111). -/
def coverParity (mask data : DataWord) : Bool := parityBit (data &&& mask) 16

/-- `CHECKBITS(data)` (R111), packed as R61 packs it. -/
def checkBits (data : DataWord) : CheckBits :=
  packCheckBits (coverParity COVER[4] data) (coverParity COVER[3] data) (coverParity COVER[2] data)
    (coverParity COVER[1] data) (coverParity COVER[0] data)

/-- `SYNDROME(stored_cbv, recomputed_cbv)` (R130). -/
def syndromeOf (stored recomputed : CheckBits) : Syndrome := stored ^^^ recomputed

/-- `SYNLOOKUP(s)`: `(hit, index)` (R132). -/
def synLookup (s : Syndrome) : Bool × BitVec 4 := SYNTAB.getD s.toNat (false, 0)

/-- The Decoder's syndrome of a word (R131). -/
def wordSyndrome (cw : Codeword) : Syndrome := syndromeOf (storedCheckBits cw) (checkBits (storedData cw))

/-- `dec_parity_err`: the stored parity differs from the recomputed one, as 1-bit values (R142, C6). -/
def parityErr (cw : Codeword) : Bool := storedParity cw != parity21 cw

/-- The classification, parity first and the syndrome second (R143, R144). -/
def classify (perr hit : Bool) (syn : Syndrome) : DecStatus :=
  if perr then (if hit then .correctedData else .redundancyError)
  else (if syn = 0 then .noError else .uncorrectable)

/-- `dec_ok` is 0 exactly for an uncorrectable word (R146, R68). -/
def DecStatus.ok : DecStatus → Bool
  | .noError => true
  | .correctedData => true
  | .redundancyError => true
  | .uncorrectable => false

end Sys2Proof.Machine
end

