-- ==== Sys2Proof/Machine/CheckBitUnit.lean ====
section
/-! DEFINITION. CHECKBITS (spec/41_checkbits.md R111). -/

namespace Sys2Proof.Machine

/-- CHECKBITS: evaluate a Check-bit Unit on its own (R111; log entry 4). Never fails (R162). -/
def execCheckbits (data : DataWord) (s : State) : Host.Outcome State Fault Refusal :=
  .next (s.setCheckBitUnit { data := data, cbv := checkBits data })

end Sys2Proof.Machine
end

