-- ==== Sys2Proof/Machine/Decoder.lean ====
section
/-! DEFINITION. DECODE (spec/44_decoder.md R141). -/

namespace Sys2Proof.Machine

/-- `dec_data` for each outcome (R145, R147): one data bit inverted, the stored data, or the free draw. -/
def decodedData (status : DecStatus) (data : DataWord) (index : BitVec 4) (draw : DataWord) : DataWord :=
  match status with
  | .noError => data
  | .correctedData => data ^^^ ((1 : DataWord) <<< index.toNat)
  | .redundancyError => data
  | .uncorrectable => draw

/-- The Decoder's ports as functions of `dec_raw` and of the draw of R147, by the steps of R141. Bits 22 and above are
never read (R140). -/
def decodeRaw (raw : RawWord) (draw : DataWord) : DecPorts :=
  let perr := parityErr raw.cw
  let syn := wordSyndrome raw.cw
  let look := synLookup syn
  let status := classify perr look.1 syn
  { raw := raw, data := decodedData status (storedData raw.cw) look.2 draw, ok := status.ok, status := status,
    parityErr := perr, syndrome := syn }

/-- DECODE: drive `dec_raw` (R141). An uncorrectable word is a result, not a trap (R160, R161); its `dec_data` is a
fresh free value (R147; log entry 2). -/
def execDecode (raw : RawWord) (s : State) : Host.Outcome State Fault Refusal :=
  .next ((s.setDec (decodeRaw raw (Config.uncorrData s.draws))).useDraw)

end Sys2Proof.Machine
end

