-- ==== Sys2Proof/Machine/Encoder.lean ====
section
/-! DEFINITION. ENCODE (spec/42_encoder.md R121). -/

namespace Sys2Proof.Machine

/-- `ENCODE(enc_data)`, by the steps of R121: check bits, bits 0 to 20, parity at bit 21. -/
def encodeData (data : DataWord) : Codeword :=
  let part := assemblePartial (checkBits data) data
  assembleCodeword part (parity21Word part)

/-- ENCODE: drive `enc_data`; `enc_cw` is its function (R121). No memory access (R123); never fails (R162). -/
def execEncode (data : DataWord) (s : State) : Host.Outcome State Fault Refusal :=
  .next (s.setEnc { data := data, cw := encodeData data })

end Sys2Proof.Machine
end

