-- ==== Sys2Proof/Machine/Parity.lean ====
section
/-! DEFINITION. PARITY21 (spec/40_parity.md R102). -/

namespace Sys2Proof.Machine

/-- PARITY21: evaluate a Parity Unit on its own (R102; log entry 4). Never fails (R162). -/
def execParity21 (w : BitVec 21) (s : State) : Host.Outcome State Fault Refusal :=
  .next (s.setParityUnit { w := w, p := parity21 w, pword := parity21Word w })

end Sys2Proof.Machine
end

