-- ==== Sys2Proof/Machine/SyndromeUnit.lean ====
section
/-! DEFINITION. SYNDROME and SYNLOOKUP (spec/43_syndrome.md R130, R132). -/

namespace Sys2Proof.Machine

/-- SYNDROME: evaluate a syndrome generator on its own (R130; log entry 4). Never fails (R162). -/
def execSyndrome (stored recomputed : CheckBits) (s : State) : Host.Outcome State Fault Refusal :=
  .next (s.setSyndromeUnit
    { stored := stored, recomputed := recomputed, syndrome := syndromeOf stored recomputed })

/-- SYNLOOKUP: evaluate a lookup table on its own (R132; log entry 4). A miss is not an error (R132). -/
def execSynlookup (syn : Syndrome) (s : State) : Host.Outcome State Fault Refusal :=
  .next (s.setLookupUnit { s := syn, hit := (synLookup syn).1, index := (synLookup syn).2 })

end Sys2Proof.Machine
end

