-- ==== Sys2Proof/Machine/Dispatch.lean ====
section
/-! DEFINITION. One arm per row of spec/opcode_table.json. -/

namespace Sys2Proof.Machine

def exec (i : Instr) (s : State) : Host.Outcome State Fault Refusal :=
  match i with
  | .parity21 w => Sys2Proof.Machine.execParity21 w s
  | .checkbits data => Sys2Proof.Machine.execCheckbits data s
  | .encode data => Sys2Proof.Machine.execEncode data s
  | .syndrome stored recomputed => Sys2Proof.Machine.execSyndrome stored recomputed s
  | .synlookup syn => Sys2Proof.Machine.execSynlookup syn s
  | .decode raw => Sys2Proof.Machine.execDecode raw s

end Sys2Proof.Machine
end

