-- ==== Sys2Proof/Machine/HostScript.lean ====
section
/-! DEFINITION. The host's script (spec/30_encoding.md R72): one meaning per kind of step, and the pseudo-steps WRITE,
READ and SCRUB by their expansions. One step is one atomic event (spec/70_reset_and_hazards.md R184). -/

namespace Sys2Proof.Machine

/-- The step the host runs next; none after the script's end. -/
def fetch (s : State) : Option HostStep := s.script[s.hpc]?

/-- The output a drive step's `-> name` receives: `enc_cw` for `ENC` (R72); `dec_data` for `DEC`, whose other results
are sampled on their ports; a unit's own output (log entry 4). -/
def resultPort : Op → Port
  | .parity21 => .parityP
  | .checkbits => .checkBits
  | .encode => .encCw
  | .syndrome => .unitSyndrome
  | .synlookup => .lookupIndex
  | .decode => .decData

/-- The operation on the input word whose bits are the low bits of `x`, as many as the input has (R28, R62, R67). Every
well-formed operation of the row is one of these. -/
def instrOfBits : Op → Nat → Instr
  | .parity21, x => .parity21 (BitVec.ofNat 21 x)
  | .checkbits, x => .checkbits (BitVec.ofNat 16 x)
  | .encode, x => .encode (BitVec.ofNat 16 x)
  | .syndrome, x => .syndrome (BitVec.ofNat 5 (x / 2 ^ 5)) (BitVec.ofNat 5 x)
  | .synlookup, x => .synlookup (BitVec.ofNat 5 x)
  | .decode, x => .decode { cw := BitVec.ofNat 22 x, high := cutHigh (x / 2 ^ 22) }

/-- The operation that runs when the host drives `v`, as the `n`-th draw of the run: on the word `v`, and where `v` has
more bits than the input, on a free word of the input, since every input word is legal (R69) and the spec does not state
which one such a number puts there. Log entry 14. -/
def drivenInstr (op : Op) (v n : Nat) : Instr :=
  match decode { op := op, value := v } with
  | .ok i => i
  | .error _ => instrOfBits op (Config.wideDrive op n)

/-- After a drive: the step's result goes to its host variable, if it names one, and the host goes on. -/
def finishDrive (op : Op) (dst : Option HostVar) (s : State) : State :=
  match dst with
  | some h => (s.setVar h (s.sample (resultPort op))).advance
  | none => s.advance

/-- `ENC d`, `DEC r` and the evaluation of a unit: run the operation on what is driven, take its result. -/
def runDrive (op : Op) (value : HExpr) (dst : Option HostVar) (s : State) : Host.Outcome State Fault Refusal :=
  match exec (drivenInstr op (evalExpr s value) s.draws) s with
  | .next t => .next (finishDrive op dst t)
  | .fault f => .fault f
  | .refused r => .refused r

/-- `IF cond GOTO n`: the host continues at step `n`, which stands at index `n - 1`, when the condition holds. `n` counts
the steps of the expanded script, pseudo-steps having been replaced by their expansions: log entry 24. The model's choices,
R72 being silent: GOTO 0 continues at step 1, and every value but 0 holds as a condition: log entry 25. -/
def runIfGoto (cond : HExpr) (n : Nat) (s : State) : State :=
  if evalExpr s cond = 0 then s.advance else (s.goto (n - 1)).useDraw

/-- One step of the host's script (R72). After HALT the host does nothing more. -/
def runHostStep (h : HostStep) (s : State) : Host.Outcome State Fault Refusal :=
  match h with
  | .drive op value dst => runDrive op value dst s
  | .store a v => .next (storeRaw (evalExpr s a) (evalExpr s v) s).advance
  | .load a dst => .next (loadRaw (evalExpr s a) dst s).advance
  | .flip a m => .next (flipRaw (evalExpr s a) (evalExpr s m) s).advance
  | .ifGoto cond n => .next (runIfGoto cond n s)
  | .assign v e => .next (s.setVar v (evalExpr s e)).advance
  | .halt => .next s

/-! ### The notation's names and pseudo-steps (R72)

A pseudo-step takes as many step numbers as its expansion has steps: log entry 24. -/

/-- `ENC d -> h`. -/
def enc (d : HExpr) (h : HostVar) : HostStep := .drive .encode d (some h)

/-- `DEC r`. -/
def dec (r : HExpr) : HostStep := .drive .decode r none

/-- `WRITE a, d` = `ENC d -> h; ST a, h`. -/
def writeSteps (a d : HExpr) (h : HostVar) : List HostStep := [enc d h, .store a (.var h)]

/-- `READ a` = `LD a -> r; DEC r`. -/
def readSteps (a : HExpr) (r : HostVar) : List HostStep := [.load a r, dec (.var r)]

/-- `SCRUB a`, standing at step `n`: `READ a`, then, when `dec_ok = 1` and `dec_status != 0b00`,
`WRITE a, dec_data`. Its six steps take the numbers `n` to `n + 5`, and the step after it is `n + 6`: log entry 24. -/
def scrubSteps (n : Nat) (a : HExpr) (r h : HostVar) : List HostStep :=
  readSteps a r ++
    [.ifGoto (.eq (.port .decOk) (.const 0)) (n + 6), .ifGoto (.eq (.port .decStatus) (.const 0)) (n + 6)] ++
    writeSteps a (.port .decData) h

/-- The state in which the host runs the one step that drives a word of the operation table (log entry 12). -/
def loadTableWord (s : State) (nbits w : Nat) : State :=
  match opOfWidth nbits with
  | some op => { s with script := [.drive op (.const w) none], hpc := 0 }
  | none => { s with script := [], hpc := 0 }

end Sys2Proof.Machine
end

