-- ==== Sys2Proof/Machine/Step.lean ====
section
/-! DEFINITION. One step of the machine: the host runs the next step of its script (spec/30_encoding.md R72); past the
script's end it drives nothing and nothing changes (log entry 12). -/

namespace Sys2Proof.Machine

/-- One step: next state, fault or refusal. -/
def step (s : State) : Host.Outcome State Fault Refusal :=
  match fetch s with
  | none => .next s
  | some h => runHostStep h s

/-- The state whose next step drives the word of the operation table and runs its operation. It stands for loading a
host script from outside the machine (log entry 12). -/
def State.withFetchWord (s : State) (nbits w : Nat) : State := loadTableWord s nbits w

end Sys2Proof.Machine
end

