-- ==== Sys2Proof/Safety.lean ====
section
/-! DEFINITION. The terms in which claims are made: the invariant of the machine, the columns of the code, and what a
port can carry. -/

namespace Sys2Proof.Machine

/-! ### Several steps -/

/-- `k` steps of the machine, stopping at the first fault or refusal. -/
def runSteps : Nat → State → Host.Outcome State Fault Refusal
  | 0, s => .next s
  | k + 1, s =>
    match step s with
    | .next t => runSteps k t
    | .fault f => .fault f
    | .refused r => .refused r

/-- The host's next step, an `ST` or a `FLIP`, writes the word at `a`. -/
def WritesAt (a : Addr) (s : State) : Prop :=
  ∃ x y : HExpr, (s.script[s.hpc]? = some (.store x y) ∨ s.script[s.hpc]? = some (.flip x y)) ∧ evalExpr s x = a

/-- None of the next `k` steps writes the word at `a`: "no other `store(a, ...)` between them" (R51), and no FLIP there. -/
def NoWriteAt (a : Addr) : Nat → State → Prop
  | 0, _ => True
  | k + 1, s => ¬ WritesAt a s ∧ ∀ t, step s = .next t → NoWriteAt a k t

/-- The expression's value does not depend on the host variables `scratch`, on any output or on any draw: it stays what
it is in `s` while the other host variables do. A literal is so, and so is a host variable that is set and is none of
`scratch`. -/
def ExprStays (e : HExpr) (s : State) (scratch : List HostVar) : Prop :=
  ∀ t : State, (∀ k, k ∉ scratch → Table.read t.vars k = Table.read s.vars k) → evalExpr t e = evalExpr s e

/-! ### The invariant -/

/-- The Encoder's output is the function of its input (R28, R31, R121, R180). -/
abbrev EncPorts.consistent (p : EncPorts) : Prop := p.cw = encodeData p.data

/-- The Decoder's outputs are the functions of its input, `dec_data` of an uncorrectable word being free (R28, R31, R141,
R147, R180), and its input has `RAW_W` bits (R62). -/
abbrev DecPorts.consistent (p : DecPorts) : Prop := p = decodeRaw p.raw p.data ∧ p.raw.fits = true

/-- R102. -/
abbrev ParityNets.consistent (n : ParityNets) : Prop := n.p = parity21 n.w ∧ n.pword = parity21Word n.w

/-- R111. -/
abbrev CheckBitNets.consistent (n : CheckBitNets) : Prop := n.cbv = checkBits n.data

/-- R130. -/
abbrev SyndromeNets.consistent (n : SyndromeNets) : Prop := n.syndrome = syndromeOf n.stored n.recomputed

/-- R132. -/
abbrev LookupNets.consistent (n : LookupNets) : Prop := (n.hit, n.index) = synLookup n.s

/-- The invariant of the machine: every driven group's outputs are the functions of its inputs, memory and the host's
variables are in canonical form, every stored word has `RAW_W` bits, and the host stays within a well-formed script. -/
structure State.Inv (s : State) : Prop where
  enc_consistent      : ∀ p, s.enc = some p → p.consistent
  dec_consistent      : ∀ p, s.dec = some p → p.consistent
  parity_consistent   : ∀ n, s.parityUnit = some n → n.consistent
  checkBit_consistent : ∀ n, s.checkBitUnit = some n → n.consistent
  syndrome_consistent : ∀ n, s.syndromeUnit = some n → n.consistent
  lookup_consistent   : ∀ n, s.lookupUnit = some n → n.consistent
  mem_wf              : Memory.wf s.mem
  mem_fits            : ∀ a w, Table.read s.mem a = some w → w.fits = true
  vars_wf             : Table.wf s.vars
  in_script           : scriptWellFormed s.script = true → s.hpc ≤ s.script.length

/-! ### The columns of the code -/

/-- The codeword with only bit `j` set: the mask that inverts bit `j`. -/
def flipBit (j : Nat) : Codeword := (1 : Codeword) <<< j

/-- `col(d)`: the 5-bit value whose bit `k` is 1 when data bit `d` is in covering set `k` (R113). -/
def col (d : Nat) : Syndrome :=
  packCheckBits (COVER[4].getLsbD d) (COVER[3].getLsbD d) (COVER[2].getLsbD d) (COVER[1].getLsbD d)
    (COVER[0].getLsbD d)

/-- `hcol(j)`, the check-bit column of codeword bit `j` (R115). -/
def hcol (j : Nat) : Syndrome :=
  if j < 16 then col j else if j < 21 then (1 : Syndrome) <<< (j - 16) else 0

/-- `XOR_{j in 0..n-1, m[j] = 1} hcol(j)` (R115, R134). -/
def xorHcol (m : Codeword) : Nat → Syndrome
  | 0 => 0
  | n + 1 => xorHcol m n ^^^ (if m.getLsbD n then hcol n else 0)

/-- `XOR_{d in 0..n-1, data[d] = 1} col(d)` (R114). -/
def xorCol (data : DataWord) : Nat → Syndrome
  | 0 => 0
  | n + 1 => xorCol data n ^^^ (if data.getLsbD n then col n else 0)

/-- The 16 values of the SyndromeTable (R26, R66, R132). -/
def tableSyndromes : List Syndrome := [3, 5, 6, 7, 9, 10, 11, 12, 13, 14, 15, 17, 18, 19, 20, 21]

/-- What the codeword of a DataWord would be under the document's literal cb1 set, mask 0xADDB, which loses
(spec/90_conflicts.md C1; R25, R121): only to say how the model differs from it. Log entry 5. -/
def literalCb1Codeword (d : DataWord) : Codeword :=
  let cbv := packCheckBits (coverParity COVER[4] d) (coverParity COVER[3] d) (coverParity COVER[2] d)
    (coverParity COVER[1] d) (coverParity 0xADDB d)
  assembleCodeword (assemblePartial cbv d) (parity21Word (assemblePartial cbv d))

/-- What a unit's or port's input can carry: any number for PARITY21, which ignores bits 21 and above (R102), a number
of `RAW_W` bits for `dec_raw` (R28), and else a number of the row's bits (R28, R67). -/
def PortCarries : Op → Nat → Prop
  | .parity21, _ => True
  | .checkbits, v => v < 2 ^ 16
  | .encode, v => v < 2 ^ 16
  | .syndrome, v => v < 2 ^ 10
  | .synlookup, v => v < 2 ^ 5
  | .decode, v => v < 2 ^ Config.rawW

end Sys2Proof.Machine
end

