-- ==== Sys2Proof/Certificates/Slice0/Obligations.lean ====
section
/-! DEFINITION. The statements. Rules R<n> are spec/'s; log entry <n> is notes/assumptions/<n>.md. A statement whose
docstring says "the spec's own inference" rests on a rule the spec marks [derived: ...]; "the spec's own decision" on one
it marks [decision: ...]. No statement rests on the value of a free value or of `State.draws`. -/

open Sys2Proof Sys2Proof.Machine

/-! ### Selecting an operation -/

/-- Words written out from the patterns of spec/opcode_table.json select their operation (a sanity statement). The
selection by driven unit is the spec's own decision D2 (R67; log entry 6). The last clause is no word of a pattern: that
the decoder names a number too wide to be a word of `enc_data` is the model's choice (log entry 14); the step that drives
it runs all the same. -/
def Obligations.DrivenWordsSelectTheirOperation : Prop :=
  Sys2Proof.decode { op := .parity21, value := 0b111101111111111111111 } = .ok (.parity21 0x1EFFFF) ∧
  Sys2Proof.decode { op := .checkbits, value := 0b0001001000110100 } = .ok (.checkbits 0x1234) ∧
  Sys2Proof.decode { op := .encode, value := 0b1010101111001101 } = .ok (.encode 0xABCD) ∧
  Sys2Proof.decode { op := .syndrome, value := 0b1100111110 } = .ok (.syndrome 0b11001 0b11110) ∧
  Sys2Proof.decode { op := .synlookup, value := 0b01100 } = .ok (.synlookup 12) ∧
  Sys2Proof.decode { op := .decode, value := 0b0110010001001010110100 } =
    .ok (.decode { cw := 0x1912B4, high := 0 }) ∧
  Sys2Proof.decode { op := .encode, value := 0x10000 } = .error (.tooWide .encode 0x10000)

/-- Decoding what the encoder drives gives the operation back, for every well-formed operation and every operand. The
drive's form is the model's choice (log entry 6) over the patterns of R67 and spec/opcode_table.json. -/
def Obligations.DecodeOfEncodeIsTheOperation : Prop :=
  ∀ i : Instr, i.wellFormed = true → Sys2Proof.decode (Sys2Proof.encode i) = .ok i

/-- The decoder takes a number for an input word exactly when it fits the input, and then no bit of it is dropped, but for
the bits 21 and above that PARITY21 does not read (R102). Naming a number too wide is the model's choice (log entry 14) over
the spec's own decision D21; the step that drives it runs all the same. -/
def Obligations.DecodeAcceptsExactlyWhatTheInputCarries : Prop :=
  ∀ (op : Op) (v : Nat),
    (PortCarries op v → ∃ i : Instr, Sys2Proof.decode { op := op, value := v } = .ok i ∧ i.wellFormed = true ∧
      Sys2Proof.encode i = { op := op, value := if op = .parity21 then v % 2 ^ 21 else v }) ∧
    (¬ PortCarries op v → Sys2Proof.decode { op := op, value := v } = .error (.tooWide op v))

/-! ### Formats -/

/-- R60: the codeword's layout, bit by bit. -/
def Obligations.CodewordLayout : Prop :=
  ∀ (d : DataWord) (s : State), ∃ p : EncPorts,
    exec (.encode d) s = .next { s with enc := some p } ∧ p.data = d ∧
    (∀ i, i < 16 → p.cw.getLsbD i = d.getLsbD i) ∧
    (∀ k, k < 5 → p.cw.getLsbD (16 + k) = (checkBits d).getLsbD k) ∧
    p.cw.getLsbD 16 = coverParity COVER[0] d ∧ p.cw.getLsbD 17 = coverParity COVER[1] d ∧
    p.cw.getLsbD 18 = coverParity COVER[2] d ∧ p.cw.getLsbD 19 = coverParity COVER[3] d ∧
    p.cw.getLsbD 20 = coverParity COVER[4] d ∧
    p.cw.getLsbD 21 = parityBit p.cw 21

/-- R61: the check-bit vector's packing; each check bit's name is its weight. -/
def Obligations.CheckBitPacking : Prop :=
  ∀ cb16 cb8 cb4 cb2 cb1 : Bool,
    (packCheckBits cb16 cb8 cb4 cb2 cb1).toNat =
      16 * cb16.toNat + 8 * cb8.toNat + 4 * cb4.toNat + 2 * cb2.toNat + cb1.toNat ∧
    (packCheckBits cb16 cb8 cb4 cb2 cb1).getLsbD 0 = cb1 ∧ (packCheckBits cb16 cb8 cb4 cb2 cb1).getLsbD 1 = cb2 ∧
    (packCheckBits cb16 cb8 cb4 cb2 cb1).getLsbD 2 = cb4 ∧ (packCheckBits cb16 cb8 cb4 cb2 cb1).getLsbD 3 = cb8 ∧
    (packCheckBits cb16 cb8 cb4 cb2 cb1).getLsbD 4 = cb16

/-- R64: the Encoder's assembly is the concatenation of parity, check bits and data, the parity word holding only bit
21. -/
def Obligations.AssemblyIsConcatenation : Prop :=
  ∀ (cbv : CheckBits) (data : DataWord),
    let part := assemblePartial cbv data
    let pword := parity21Word part
    (∀ i, i < 21 → pword.getLsbD i = false) ∧ pword.getLsbD 21 = parityBit part 21 ∧
    part = (cbv ++ data : BitVec 21) ∧
    assembleCodeword part pword = (BitVec.ofBool (parityBit part 21) ++ (cbv ++ data) : BitVec 22)

/-- R65: the Decoder's fields are bits 15..0, 20..16 and 21 of the raw word, and no field reads a bit above 21. -/
def Obligations.FieldExtraction : Prop :=
  ∀ raw : Nat,
    (∀ i, (storedData (RawWord.ofNat raw).cw).getLsbD i = (decide (i < 16) && raw.testBit i)) ∧
    (∀ k, (storedCheckBits (RawWord.ofNat raw).cw).getLsbD k = (decide (k < 5) && raw.testBit (16 + k))) ∧
    storedParity (RawWord.ofNat raw).cw = raw.testBit 21 ∧
    (∀ other : Nat, other % 2 ^ 22 = raw % 2 ^ 22 →
      storedData (RawWord.ofNat other).cw = storedData (RawWord.ofNat raw).cw ∧
      storedCheckBits (RawWord.ofNat other).cw = storedCheckBits (RawWord.ofNat raw).cw ∧
      storedParity (RawWord.ofNat other).cw = storedParity (RawWord.ofNat raw).cw)

/-! ### The Parity Unit -/

/-- PARITY21 completes with `p` the XOR of bits 0 to 20 and `pword` that bit at position 21, changing nothing but its
own nets; bits 21 and above of the driven word are ignored. That it has nets of its own is the model's choice (log
entry 4); R102's last clause, on the tree's shape, is the spec's own inference and is not stated. -/
def Obligations.Parity21IsXorOf21Bits : Prop :=
  (∀ (w : BitVec 21) (s : State), ∃ n : ParityNets,
    exec (.parity21 w) s = .next { s with parityUnit := some n } ∧ n.w = w ∧
    n.p = (w.getLsbD 0 ^^ w.getLsbD 1 ^^ w.getLsbD 2 ^^ w.getLsbD 3 ^^ w.getLsbD 4 ^^ w.getLsbD 5 ^^ w.getLsbD 6 ^^
      w.getLsbD 7 ^^ w.getLsbD 8 ^^ w.getLsbD 9 ^^ w.getLsbD 10 ^^ w.getLsbD 11 ^^ w.getLsbD 12 ^^ w.getLsbD 13 ^^
      w.getLsbD 14 ^^ w.getLsbD 15 ^^ w.getLsbD 16 ^^ w.getLsbD 17 ^^ w.getLsbD 18 ^^ w.getLsbD 19 ^^ w.getLsbD 20) ∧
    n.pword = if n.p then 0x200000 else 0) ∧
  (∀ v : Nat, ∃ w : BitVec 21, Sys2Proof.decode { op := .parity21, value := v } = .ok (.parity21 w) ∧
    ∀ i, i < 21 → w.getLsbD i = v.testBit i)

/-- `computeParity(word, n)` has, at bit `n`, whether an odd number of bits 0 to n-1 is set, and no other bit; it reads
no bit at or above `n`, and `n = 0` gives 0. Missing bits read as 0: the spec's own decision D18 (log entry 22). -/
def Obligations.ComputeParityIsPositioned : Prop :=
  ∀ (w : Nat) (word : BitVec w) (n : Nat),
    (∀ i, (computeParity word n).getLsbD i = (decide (i = n) && decide (countOnes word n % 2 = 1))) ∧
    computeParity word 0 = 0 ∧
    (∀ other : BitVec w, (∀ i, i < n → other.getLsbD i = word.getLsbD i) → computeParity other n = computeParity word n)

/-- R104: every codeword the Encoder produces has the parity bit of its own bits 0 to 20, so all 22 bits XOR to 0. -/
def Obligations.EncodedWordHasEvenParity : Prop :=
  ∀ (d : DataWord) (s : State), ∃ p : EncPorts,
    exec (.encode d) s = .next { s with enc := some p } ∧ p.data = d ∧
    p.cw.getLsbD 21 = parity21 p.cw ∧
    (List.range 22).foldl (fun acc i => acc ^^ p.cw.getLsbD i) false = false

/-- Inverting bits among 0 to 20 inverts the parity exactly when their number is odd (R105, the spec's own
inference). -/
def Obligations.ParityFlipLaw : Prop :=
  ∀ w m : Codeword, m.getLsbD 21 = false →
    parity21 (w ^^^ m) = (parity21 w ^^ decide (popcount m % 2 = 1))

/-! ### The Check-bit Unit -/

/-- R111: bit `k` of CHECKBITS is the XOR of the data bits in covering set `k`; its corner cases and example. -/
def Obligations.CheckbitsIsXorOverCoveringSets : Prop :=
  (∀ (d : DataWord) (k : Fin 5), (checkBits d).getLsbD k =
    (List.range 16).foldl (fun acc i => acc ^^ (d.getLsbD i && COVER[k].getLsbD i)) false) ∧
  checkBits 0x0000 = 0b00000 ∧ checkBits 0xFFFF = 0b11110 ∧ checkBits 0x1234 = 0b11001 ∧
  popcount COVER[4] = 5 ∧ popcount COVER[3] = 7 ∧ popcount COVER[2] = 9 ∧ popcount COVER[1] = 9 ∧ popcount COVER[0] = 10

/-- R112: the five check bits, written out. -/
def Obligations.CheckBitEquations : Prop :=
  ∀ d : DataWord,
    (checkBits d).getLsbD 0 = (d.getLsbD 0 ^^ d.getLsbD 1 ^^ d.getLsbD 3 ^^ d.getLsbD 4 ^^ d.getLsbD 6 ^^ d.getLsbD 8 ^^
      d.getLsbD 10 ^^ d.getLsbD 11 ^^ d.getLsbD 13 ^^ d.getLsbD 15) ∧
    (checkBits d).getLsbD 1 = (d.getLsbD 0 ^^ d.getLsbD 2 ^^ d.getLsbD 3 ^^ d.getLsbD 5 ^^ d.getLsbD 6 ^^ d.getLsbD 9 ^^
      d.getLsbD 10 ^^ d.getLsbD 12 ^^ d.getLsbD 13) ∧
    (checkBits d).getLsbD 2 = (d.getLsbD 1 ^^ d.getLsbD 2 ^^ d.getLsbD 3 ^^ d.getLsbD 7 ^^ d.getLsbD 8 ^^ d.getLsbD 9 ^^
      d.getLsbD 10 ^^ d.getLsbD 14 ^^ d.getLsbD 15) ∧
    (checkBits d).getLsbD 3 = (d.getLsbD 4 ^^ d.getLsbD 5 ^^ d.getLsbD 6 ^^ d.getLsbD 7 ^^ d.getLsbD 8 ^^ d.getLsbD 9 ^^
      d.getLsbD 10) ∧
    (checkBits d).getLsbD 4 = (d.getLsbD 11 ^^ d.getLsbD 12 ^^ d.getLsbD 13 ^^ d.getLsbD 14 ^^ d.getLsbD 15)

/-- R25: the covering masks, their sets, and the one bit by which the losing literal set of cb1 differs. -/
def Obligations.CoverTableMatchesCoveringSets : Prop :=
  COVER[4] = 0xF800 ∧ COVER[3] = 0x07F0 ∧ COVER[2] = 0xC78E ∧ COVER[1] = 0x366D ∧ COVER[0] = 0xAD5B ∧
  ∀ d, d < 16 →
    COVER[4].getLsbD d = decide (d ∈ [11, 12, 13, 14, 15]) ∧
    COVER[3].getLsbD d = decide (d ∈ [4, 5, 6, 7, 8, 9, 10]) ∧
    COVER[2].getLsbD d = decide (d ∈ [1, 2, 3, 7, 8, 9, 10, 14, 15]) ∧
    COVER[1].getLsbD d = decide (d ∈ [0, 2, 3, 5, 6, 9, 10, 12, 13]) ∧
    COVER[0].getLsbD d = decide (d ∈ [0, 1, 3, 4, 6, 8, 10, 11, 13, 15]) ∧
    (0xADDB : DataWord).getLsbD d = (COVER[0].getLsbD d || decide (d = 7))

/-- R113: the columns are the table's, distinct, neither 0 nor a power of two, rising, exactly the SyndromeTable's
values, and the syndrome of the codeword with data bit `d` alone inverted; with the literal cb1 set (mask 0xADDB) the
columns of 7 and 8 would both be 13. -/
def Obligations.ColumnCodeOfEachDataBit : Prop :=
  (List.range 16).map col = [3, 5, 6, 7, 9, 10, 11, 12, 13, 14, 15, 17, 18, 19, 20, 21] ∧
  (∀ d, d < 16 → ∀ k : Fin 5, (col d).getLsbD k = COVER[k].getLsbD d) ∧
  (∀ e, e < 16 → ∀ d, d < e → (col d).toNat < (col e).toNat) ∧
  (∀ d, d < 16 → col d ∉ ([0, 1, 2, 4, 8, 16] : List Syndrome)) ∧
  (∀ s : Syndrome, (synLookup s).1 = true ↔ ∃ d, d < 16 ∧ col d = s) ∧
  (∀ (x : DataWord) (d : Nat), d < 16 → wordSyndrome (encodeData x ^^^ flipBit d) = col d) ∧
  (∀ d, d = 7 ∨ d = 8 → packCheckBits (COVER[4].getLsbD d) (COVER[3].getLsbD d) (COVER[2].getLsbD d)
    (COVER[1].getLsbD d) ((0xADDB : DataWord).getLsbD d) = 13)

/-- CHECKBITS is linear, its value on one bit is that bit's column, and so it is the XOR of the columns of the set bits
(R114, the spec's own inference). -/
def Obligations.CheckBitsAreLinear : Prop :=
  (∀ a b : DataWord, checkBits (a ^^^ b) = checkBits a ^^^ checkBits b) ∧
  (∀ d, d < 16 → checkBits ((1 : DataWord) <<< d) = col d) ∧
  (∀ data : DataWord, checkBits data = xorCol data 16)

/-- A 22-bit word's check field matches its data exactly when the columns of its set bits among 0 to 20 XOR to 0; those
21 columns are distinct and non-zero, and the parity bit's is 0 (R115, the spec's own inference). -/
def Obligations.ParityCheckColumns : Prop :=
  (∀ c : Codeword, storedCheckBits c = checkBits (storedData c) ↔ xorHcol c 21 = 0) ∧
  (∀ j, j < 21 → ∀ i, i < j → hcol i ≠ hcol j) ∧ (∀ j, j < 21 → hcol j ≠ 0) ∧ hcol 21 = 0

/-! ### The syndrome generator and the lookup table -/

/-- R130: the syndrome is the XOR of the stored and the recomputed vector, 0 exactly when they are equal, whatever their
order; and the port `dec_syndrome` is this function of the Decoder's two vectors; its example. -/
def Obligations.SyndromeIsXor : Prop :=
  (∀ stored recomputed : CheckBits,
    (∀ k, (syndromeOf stored recomputed).getLsbD k = (stored.getLsbD k ^^ recomputed.getLsbD k)) ∧
    (syndromeOf stored recomputed = 0 ↔ stored = recomputed) ∧
    syndromeOf stored recomputed = syndromeOf recomputed stored) ∧
  (∀ (raw : RawWord) (s : State), ∃ (p : DecPorts) (n : Nat),
    exec (.decode raw) s = .next { s with dec := some p, draws := n } ∧
    p.syndrome = syndromeOf (storedCheckBits raw.cw) (checkBits (storedData raw.cw))) ∧
  syndromeOf 0b11001 0b11111 = 6

/-- CHECKBITS and SYNDROME, evaluated on their own, complete on every input with the unit's function on its outputs, and
change nothing but that unit's nets. That a unit has nets of its own is the model's choice (log entry 4) over the
internal units' rows of the operation table. -/
def Obligations.CheckbitsAndSyndromeComplete : Prop :=
  (∀ (d : DataWord) (s : State),
    let nets : CheckBitNets := { data := d, cbv := checkBits d }
    exec (.checkbits d) s = .next { s with checkBitUnit := some nets }) ∧
  (∀ (stored recomputed : CheckBits) (s : State),
    let nets : SyndromeNets := { stored := stored, recomputed := recomputed, syndrome := stored ^^^ recomputed }
    exec (.syndrome stored recomputed) s = .next { s with syndromeUnit := some nets })

/-- SYNLOOKUP completes for all 32 syndromes, changing nothing but its own nets: a hit exactly for the table's values,
with the index of the data bit whose column it is; a miss gives index 0. The pairing is the spec's own inference (R26),
the miss index its own decision D24 (log entry 16), the nets the model's choice (log entry 4). -/
def Obligations.SynlookupFindsTheDataBit : Prop :=
  ∀ (syn : Syndrome) (s : State), ∃ n : LookupNets,
    exec (.synlookup syn) s = .next { s with lookupUnit := some n } ∧ n.s = syn ∧
    (n.hit = true ↔ syn ∈ tableSyndromes) ∧ (n.hit = true → col n.index.toNat = syn) ∧ (n.hit = false → n.index = 0)

/-- The table sends each data bit's column to that bit, and the 16 hit values are distinct and disjoint from
{0, 1, 2, 4, 8, 16} (R133, the spec's own inference). -/
def Obligations.SynlookupInvertsTheColumns : Prop :=
  (∀ d, d < 16 → synLookup (col d) = (true, BitVec.ofNat 4 d)) ∧
  (∀ d, d < 16 → ∀ e, e < 16 → col d = col e → d = e) ∧
  (∀ s ∈ ([0, 1, 2, 4, 8, 16] : List Syndrome), (synLookup s).1 = false)

/-! ### The Encoder -/

/-- R121: ENCODE completes with `enc_cw = {p, checkBits, enc_data}`, `p` the parity of the 21 bits below it, changing
nothing else; its corner cases and example; and it differs from the losing literal reading of cb1 exactly on the words
with bit 7 set. -/
def Obligations.EncodeResult : Prop :=
  (∀ (d : DataWord) (s : State),
    let p := parityBit (checkBits d ++ d : BitVec 21) 21
    let cw : Codeword := BitVec.ofBool p ++ (checkBits d ++ d)
    exec (.encode d) s = .next { s with enc := some { data := d, cw := cw } }) ∧
  encodeData 0x0000 = 0x000000 ∧ encodeData 0xFFFF = 0x1EFFFF ∧ encodeData 0x0007 = 0x200007 ∧
  encodeData 0x0180 = 0x210180 ∧ encodeData 0x0080 = 0x2C0080 ∧ encodeData 0x1234 = 0x191234 ∧
  literalCb1Codeword 0x0180 = 0x000180 ∧ literalCb1Codeword 0x0080 = 0x0D0080 ∧
  (∀ d : DataWord, literalCb1Codeword d ≠ encodeData d ↔ d.getLsbD 7 = true)

/-- Every codeword holds its data and its check bits and has even parity, and the Encoder is linear (R124, the spec's
own inference). -/
def Obligations.EncoderInvariantsAndLinearity : Prop :=
  (∀ d : DataWord, storedData (encodeData d) = d ∧ storedCheckBits (encodeData d) = checkBits d ∧
    parityBit (encodeData d) 22 = false) ∧
  (∀ a b : DataWord, encodeData (a ^^^ b) = encodeData a ^^^ encodeData b)

/-- Two distinct codewords differ in at least 4 of the 22 bits (R125, the spec's own inference). -/
def Obligations.DistinctCodewordsDifferInFourBits : Prop :=
  ∀ a b : DataWord, a ≠ b → 4 ≤ popcount (encodeData a ^^^ encodeData b)

/-- The 16 generator rows, and every codeword is the XOR of the rows of its data's set bits (R126, the spec's own
inference). -/
def Obligations.GeneratorRows : Prop :=
  let rows : List Codeword := [0x230001, 0x250002, 0x260004, 0x070008, 0x290010, 0x2A0020, 0x0B0040, 0x2C0080,
    0x0D0100, 0x0E0200, 0x2F0400, 0x310800, 0x321000, 0x132000, 0x344000, 0x158000]
  (List.range 16).map (fun i => encodeData ((1 : DataWord) <<< i)) = rows ∧
  ∀ d : DataWord, encodeData d =
    (List.range 16).foldl (fun acc i => acc ^^^ (if d.getLsbD i then rows.getD i 0 else 0)) 0

/-! ### The Decoder -/

/-- R141: DECODE completes on every raw word with the outputs of its six steps and changes nothing else (but which draw
comes next); the data of an uncorrectable word is some draw; its corner cases and example. -/
def Obligations.DecodeResult : Prop :=
  (∀ (raw : RawWord) (s : State), ∃ (draw : DataWord) (n : Nat),
    let data := raw.cw.extractLsb' 0 16
    let storedCbv : CheckBits := raw.cw.extractLsb' 16 5
    let perr := raw.cw.getLsbD 21 != parityBit raw.cw 21
    let syn := storedCbv ^^^ checkBits data
    let look := synLookup syn
    let ports : DecPorts :=
      if perr = true then
        if look.1 = true then
          { raw := raw, data := data ^^^ ((1 : DataWord) <<< look.2.toNat), ok := true
            status := .correctedData, parityErr := true, syndrome := syn }
        else
          { raw := raw, data := data, ok := true, status := .redundancyError, parityErr := true, syndrome := syn }
      else if syn ≠ 0 then
        { raw := raw, data := draw, ok := false
          status := .uncorrectable, parityErr := false, syndrome := syn }
      else
        { raw := raw, data := data, ok := true, status := .noError, parityErr := false, syndrome := syn }
    exec (.decode raw) s = .next { s with dec := some ports, draws := n }) ∧
  (∀ (high : Nat) (x : DataWord),
    decodeRaw { cw := 0, high := high } x =
      { raw := { cw := 0, high := high }, data := 0, ok := true
        status := .noError, parityErr := false, syndrome := 0 } ∧
    decodeRaw { cw := 0x200000, high := high } x =
      { raw := { cw := 0x200000, high := high }, data := 0, ok := true
        status := .redundancyError, parityErr := true, syndrome := 0 } ∧
    decodeRaw { cw := 0x3FFFFF, high := high } x =
      { raw := { cw := 0x3FFFFF, high := high }, data := x, ok := false
        status := .uncorrectable, parityErr := false, syndrome := 1 } ∧
    decodeRaw { cw := 0x1912B4, high := high } x =
      { raw := { cw := 0x1912B4, high := high }, data := 0x1234, ok := true
        status := .correctedData, parityErr := true, syndrome := 12 }) ∧
  encodeData 0x1234 ^^^ flipBit 7 = 0x1912B4 ∧
  (∀ (raw : RawWord) (x : DataWord), (decodeRaw raw x).parityErr = true → 22 ≤ (decodeRaw raw x).syndrome.toNat →
    (decodeRaw raw x).status = .redundancyError)

/-- R140: DECODE completes on every raw word, and bits 22 and above of it are never read: changing them changes no
output. -/
def Obligations.DecodeNeverReadsHighBits : Prop :=
  ∀ (cw : Codeword) (high high' : Nat) (s : State), ∃ (p : DecPorts) (n : Nat),
    exec (.decode { cw := cw, high := high }) s = .next { s with dec := some p, draws := n } ∧ p.raw.cw = cw ∧
    exec (.decode { cw := cw, high := high' }) s =
      .next { s with dec := some { p with raw := { cw := cw, high := high' } }, draws := n }

/-- R142: `dec_parity_err` compares the two 1-bit parities, which is the XOR of all 22 bits. -/
def Obligations.ParityErrIsXorOfAll22Bits : Prop :=
  ∀ (raw : RawWord) (s : State), ∃ (p : DecPorts) (n : Nat),
    exec (.decode raw) s = .next { s with dec := some p, draws := n } ∧
    p.parityErr = (raw.cw.getLsbD 21 != parity21 raw.cw) ∧
    p.parityErr = (List.range 22).foldl (fun acc i => acc ^^ raw.cw.getLsbD i) false

/-- R143: the four cases, by parity and then syndrome; they cover all combinations and no two overlap. -/
def Obligations.ClassificationByParityThenSyndrome : Prop :=
  (∀ (raw : RawWord) (s : State), ∃ (p : DecPorts) (n : Nat),
    exec (.decode raw) s = .next { s with dec := some p, draws := n } ∧
    (p.status = .correctedData ↔ p.parityErr = true ∧ p.syndrome ∈ tableSyndromes) ∧
    (p.status = .redundancyError ↔ p.parityErr = true ∧ p.syndrome ∉ tableSyndromes) ∧
    (p.status = .uncorrectable ↔ p.parityErr = false ∧ p.syndrome ≠ 0) ∧
    (p.status = .noError ↔ p.parityErr = false ∧ p.syndrome = 0)) ∧
  (∀ (perr : Bool) (syn : Syndrome),
    [decide (perr = true ∧ syn ∈ tableSyndromes), decide (perr = true ∧ syn ∉ tableSyndromes),
      decide (perr = false ∧ syn ≠ 0), decide (perr = false ∧ syn = 0)].count true = 1)

/-- R145: on a corrected word exactly the bit the table names is inverted in the stored data; on the other two outcomes
with `dec_ok = 1` the stored data is returned. -/
def Obligations.DecodedDataWhenOk : Prop :=
  ∀ (raw : RawWord) (s : State), ∃ (p : DecPorts) (n : Nat),
    exec (.decode raw) s = .next { s with dec := some p, draws := n } ∧
    (p.status = .correctedData →
      p.data = storedData raw.cw ^^^ ((1 : DataWord) <<< (synLookup p.syndrome).2.toNat) ∧
      popcount (p.data ^^^ storedData raw.cw) = 1) ∧
    (p.status = .redundancyError → p.data = storedData raw.cw) ∧
    (p.status = .noError → p.data = storedData raw.cw)

/-- R146: `dec_ok = 0` exactly when the parities match and the syndrome is not 0. -/
def Obligations.NotOkExactlyWhenUncorrectable : Prop :=
  ∀ (raw : RawWord) (s : State), ∃ (p : DecPorts) (n : Nat),
    exec (.decode raw) s = .next { s with dec := some p, draws := n } ∧
    (p.ok = false ↔ p.status = .uncorrectable) ∧ (p.ok = false ↔ p.parityErr = false ∧ p.syndrome ≠ 0)

/-- The four status codes are distinct and fill two bits, and `dec_ok = 1` exactly when the code is not 0b11 (R68, the
spec's own decision D4). -/
def Obligations.StatusCodes : Prop :=
  DecStatus.code .noError = 0b00 ∧ DecStatus.code .correctedData = 0b01 ∧ DecStatus.code .redundancyError = 0b10 ∧
  DecStatus.code .uncorrectable = 0b11 ∧ (∀ c : BitVec 2, ∃ st : DecStatus, st.code = c) ∧
  (∀ st : DecStatus, st.ok = true ↔ st.code ≠ 0b11)

/-- The Decoder's outputs are a function of bits 0 to 21 of `dec_raw` and, on an uncorrectable word, of the free value:
with any two values of the bits above and any two of the free value they agree in all but `dec_data`, and in that too when
`dec_ok = 1` (R147, the spec's own decision D5; R153). -/
def Obligations.OnlyUncorrectableDataIsFree : Prop :=
  ∀ (cw : Codeword) (high high' : Nat) (x y : DataWord),
    let p := decodeRaw { cw := cw, high := high } x
    let q := decodeRaw { cw := cw, high := high' } y
    q = { p with raw := { cw := cw, high := high' }, data := q.data } ∧
    (p.ok = true → q.data = p.data) ∧ (p.ok = false → p.data = x ∧ q.data = y)

/-- A codeword's syndrome is 0, and the syndrome does not depend on the parity bit (R131, the spec's own inference). -/
def Obligations.CodewordSyndromeIsZero : Prop :=
  (∀ d : DataWord, wordSyndrome (encodeData d) = 0) ∧
  (∀ c : Codeword, wordSyndrome (c ^^^ flipBit 21) = wordSyndrome c)

/-- The syndrome of a codeword with any bits inverted is the XOR of the inverted bits' columns, whatever the data, and the
six redundancy bits' own are misses (R134, the spec's own inference). That a miss gives index 0 is no part of R134: it is
the spec's own decision D24 (R132; log entry 16). -/
def Obligations.ErrorSyndromeLaw : Prop :=
  (∀ (d : DataWord) (m : Codeword), wordSyndrome (encodeData d ^^^ m) = xorHcol m 21) ∧
  (∀ (d : DataWord) (j : Nat), j < 22 → wordSyndrome (encodeData d ^^^ flipBit j) = hcol j ∧
    synLookup (hcol j) = if j < 16 then (true, BitVec.ofNat 4 j) else (false, 0))

/-- Two inverted bits always give a non-zero syndrome (R135, the spec's own inference). -/
def Obligations.TwoFlipsGiveNonzeroSyndrome : Prop :=
  ∀ (d : DataWord) (i j : Nat), i < 22 → j < 22 → i ≠ j →
    wordSyndrome (encodeData d ^^^ flipBit i ^^^ flipBit j) ≠ 0

/-- The document's four testable properties, with any bits above the codeword: the round trip, the correction of any
single data bit, of any single redundancy bit, and the detection of any two inverted bits (R150, the spec's own
inference; spec/95_test_vectors.md section 1.2). -/
def Obligations.SecdedGuarantees : Prop :=
  ∀ (d : DataWord) (high : Nat) (s : State),
    let outcome := fun (cw : Codeword) (p : DecPorts) =>
      ∃ n : Nat, exec (.decode { cw := cw, high := high }) s = .next { s with dec := some p, draws := n }
    (∃ p, outcome (encodeData d) p ∧ p.status = .noError ∧ p.data = d ∧ p.ok = true) ∧
    (∀ i, i < 16 → ∃ p, outcome (encodeData d ^^^ flipBit i) p ∧ p.status = .correctedData ∧ p.data = d ∧ p.ok = true) ∧
    (∀ j, 16 ≤ j → j < 22 →
      ∃ p, outcome (encodeData d ^^^ flipBit j) p ∧ p.status = .redundancyError ∧ p.data = d ∧ p.ok = true) ∧
    (∀ i j, i < 22 → j < 22 → i ≠ j →
      ∃ p, outcome (encodeData d ^^^ flipBit i ^^^ flipBit j) p ∧ p.status = .uncorrectable ∧ p.ok = false)

/-- Within the contract the status reports the number of inverted bits exactly: for every mask of at most two bits
(R151, the spec's own inference). -/
def Obligations.StatusCountsInvertedBits : Prop :=
  ∀ (d : DataWord) (m : Codeword) (high : Nat) (x : DataWord), popcount m ≤ 2 →
    let p := decodeRaw { cw := encodeData d ^^^ m, high := high } x
    (p.status = .noError ↔ popcount m = 0) ∧
    (p.status = .correctedData ↔ popcount m = 1 ∧ countOnes m 16 = 1) ∧
    (p.status = .redundancyError ↔ popcount m = 1 ∧ countOnes m 16 = 0) ∧
    (p.status = .uncorrectable ↔ popcount m = 2)

/-- A parity mismatch with any syndrome outside the table, 22 to 31 among them, is a redundancy error with the stored
data unchanged and `dec_ok = 1` (R149, the spec's own decision D7; log entry 17). -/
def Obligations.UnlistedSyndromeIsRedundancyError : Prop :=
  ∀ (raw : RawWord) (s : State), ∃ (p : DecPorts) (n : Nat),
    exec (.decode raw) s = .next { s with dec := some p, draws := n } ∧
    (p.parityErr = true → (synLookup p.syndrome).1 = false →
      p.status = .redundancyError ∧ p.data = storedData raw.cw ∧ p.ok = true) ∧
    (22 ≤ p.syndrome.toNat → (synLookup p.syndrome).1 = false)

/-- Beyond two inverted bits: an odd number is always reported with a parity mismatch and `dec_ok = 1`, an even number
never with a mismatch; and two words on which the answer is wrong though reported good (R152, the spec's own decision
D19; log entry 21). -/
def Obligations.BeyondTheContract : Prop :=
  (∀ (d : DataWord) (m : Codeword) (high : Nat) (x : DataWord),
    let p := decodeRaw { cw := encodeData d ^^^ m, high := high } x
    (popcount m % 2 = 1 → p.parityErr = true ∧ p.ok = true) ∧ (popcount m % 2 = 0 → p.parityErr = false)) ∧
  (∀ (high : Nat) (x : DataWord),
    let three := decodeRaw { cw := encodeData 0x1234 ^^^ flipBit 0 ^^^ flipBit 1 ^^^ flipBit 16, high := high } x
    let four := decodeRaw
      { cw := encodeData 0x1234 ^^^ flipBit 0 ^^^ flipBit 1 ^^^ flipBit 2 ^^^ flipBit 21, high := high } x
    three.syndrome = 7 ∧ three.data = 0x123F ∧ three.ok = true ∧ three.status = .correctedData ∧
    four.data = 0x1233 ∧ four.ok = true ∧ four.status = .noError)

/-- UncorrectableError is reported only by DECODE, on the same evaluation's outputs, as `dec_ok = 0` with code 0b11, and
the syndrome and the parity error are recorded with it (R161; its cause code is the spec's own decision D4). -/
def Obligations.UncorrectableErrorReport : Prop :=
  (∀ (raw : RawWord) (s : State), ∃ (p : DecPorts) (n : Nat),
    exec (.decode raw) s = .next { s with dec := some p, draws := n } ∧
    (p.ok = false ↔ parityErr raw.cw = false ∧ wordSyndrome raw.cw ≠ 0) ∧ (p.ok = false ↔ p.status.code = 0b11) ∧
    p.parityErr = parityErr raw.cw ∧ p.syndrome = wordSyndrome raw.cw) ∧
  (∀ (i : Instr) (s t : State), exec i s = .next t → (∀ raw, i ≠ .decode raw) → t.dec = s.dec)

/-! ### All operations: completion and frames -/

/-- R162: the five operations but DECODE complete on every input in every state; DECODE does too, and its corrected and
redundancy-error outcomes have `dec_ok = 1` and return the data. -/
def Obligations.OperationsNeverFail : Prop :=
  (∀ (w : BitVec 21) (s : State), ∃ t, exec (.parity21 w) s = .next t) ∧
  (∀ (d : DataWord) (s : State), ∃ t, exec (.checkbits d) s = .next t) ∧
  (∀ (d : DataWord) (s : State), ∃ t, exec (.encode d) s = .next t) ∧
  (∀ (a b : CheckBits) (s : State), ∃ t, exec (.syndrome a b) s = .next t) ∧
  (∀ (syn : Syndrome) (s : State), ∃ t, exec (.synlookup syn) s = .next t) ∧
  (∀ (raw : RawWord) (s : State), ∃ (t : State) (p : DecPorts), exec (.decode raw) s = .next t ∧ t.dec = some p ∧
    (p.status = .correctedData → p.ok = true ∧ ∃ k, k < 16 ∧ p.data = storedData raw.cw ^^^ ((1 : DataWord) <<< k)) ∧
    (p.status = .redundancyError → p.ok = true ∧ p.data = storedData raw.cw))

/-- No operation changes the collaborator's memory (at any address), the host's script, its place in it or its
variables: the core makes no memory access and transfers no control (R160, R123, R154). -/
def Obligations.OperationsLeaveMemoryAndHostAlone : Prop :=
  ∀ (i : Instr) (s t : State), exec i s = .next t →
    t.mem = s.mem ∧ (∀ a, Table.read t.mem a = Table.read s.mem a) ∧
    t.script = s.script ∧ t.hpc = s.hpc ∧ t.vars = s.vars

/-- Each operation drives its own port group or nets and leaves every other alone; only DECODE uses a draw (R22, R28,
R165; that the units have nets of their own is the model's choice, log entry 4). -/
def Obligations.OperationsDriveOnlyTheirOwnOutputs : Prop :=
  ∀ (i : Instr) (s t : State), exec i s = .next t →
    ((∀ d, i ≠ .encode d) → t.enc = s.enc) ∧
    ((∀ raw, i ≠ .decode raw) → t.dec = s.dec ∧ t.draws = s.draws) ∧
    ((∀ w, i ≠ .parity21 w) → t.parityUnit = s.parityUnit) ∧
    ((∀ d, i ≠ .checkbits d) → t.checkBitUnit = s.checkBitUnit) ∧
    ((∀ a b, i ≠ .syndrome a b) → t.syndromeUnit = s.syndromeUnit) ∧
    ((∀ syn, i ≠ .synlookup syn) → t.lookupUnit = s.lookupUnit)

/-- Evaluating the Encoder and the Decoder, in either order, gives one and the same state: neither reads or affects the
other's ports (R22, R165; that one step evaluates one group is the model's choice, log entry 15). -/
def Obligations.EncoderAndDecoderAreIndependent : Prop :=
  ∀ (d : DataWord) (raw : RawWord) (s : State), ∃ (e c t : State),
    exec (.encode d) s = .next e ∧ exec (.decode raw) s = .next c ∧
    exec (.decode raw) e = .next t ∧ exec (.encode d) c = .next t ∧ t.enc = e.enc ∧ t.dec = c.dec

/-! ### The host and the collaborator -/

/-- A step whose host step drives a number that selects operation `i` is `exec i`, then the step's result goes to the
host variable it names, and the host goes on (R72, the spec's own decision D17; log entries 6 and 12). The model's choices:
a step for an internal unit on its own, and which of its outputs is the result, R72 having none (log entry 4); that the
expression is read before the operation and the result stored after it (log entry 23); and the draw each step uses (log
entry 2). -/
def Obligations.StepRunsTheDrivenOperation : Prop :=
  ∀ (s : State) (op : Op) (e : HExpr) (dst : Option HostVar) (i : Instr),
    s.script[s.hpc]? = some (.drive op e dst) →
    Sys2Proof.decode { op := op, value := evalExpr s e } = .ok i →
    ∃ t : State, exec i s = .next t ∧
      step s = .next { t with
        hpc := s.hpc + 1
        draws := t.draws + 1
        vars := match dst with
          | some h => Table.write s.vars h (t.sample (resultPort op))
          | none => s.vars }

/-- A step whose host step drives a number with more bits than its input has runs the operation on some word of that
input, and goes on as any drive step does; no word is left out of what a draw can give. Every input word is legal (R69); which
one stands on the input the spec does not state, so that the word is a free value is the model's choice (log entry 14; the
rest as in StepRunsTheDrivenOperation, log entries 2, 4, 23). -/
def Obligations.StepRunsATooWideDriveOnAFreeWord : Prop :=
  (∀ (s : State) (op : Op) (e : HExpr) (dst : Option HostVar),
    s.script[s.hpc]? = some (.drive op e dst) → ¬ PortCarries op (evalExpr s e) →
    ∃ (v : Nat) (i : Instr) (t : State), PortCarries op v ∧ Sys2Proof.decode { op := op, value := v } = .ok i ∧
      exec i s = .next t ∧
      step s = .next { t with
        hpc := s.hpc + 1
        draws := t.draws + 1
        vars := match dst with
          | some h => Table.write s.vars h (t.sample (resultPort op))
          | none => s.vars }) ∧
  (∀ (op : Op) (v : Nat) (i : Instr), Sys2Proof.decode { op := op, value := v } = .ok i →
    ∃ draw : Nat, instrOfBits op draw = i)

/-- After the collaborator's `store(a, v)` the word at `a` holds `v[21:0]` in its bits 0 to 21 (R41); what its higher bits
hold R41 does not state, and the statement neither (the model's zeros are log entry 10's). That every other address and all
the rest of the state are unchanged is not R41's: it rests on R44, the spec's own decision D10 (`M[b]` is what the last
store at `b` wrote), and on the model's choice of a memory of one word per address (log entry 7). -/
def Obligations.StoreHoldsTheLow22Bits : Prop :=
  ∀ (a : Addr) (v : Nat) (s : State), ∃ (m : Memory) (w : RawWord),
    storeRaw a v s = { s with mem := m } ∧ Table.read m a = some w ∧
    (∀ i, i < 22 → w.cw.getLsbD i = v.testBit i) ∧
    (∀ b, b ≠ a → Table.read m b = Table.read s.mem b)

/-- The collaborator's `load(a)` gives the stored word with 0, 1 or 2 of its low 22 bits inverted, whichever draw it takes
(R42), and every such inversion is the value of some draw (R44, the spec's own decision D10). That a draw becomes a mask
through `boundMask` is the model's choice (log entry 8). -/
def Obligations.LoadInvertsAtMostTwoBits : Prop :=
  (∀ (m : Memory) (a : Addr) (n : Nat) (w : RawWord), Table.read m a = some w →
    popcount ((loadWord m a n).cw ^^^ w.cw) ≤ 2) ∧
  (∀ inverted : Codeword, popcount inverted ≤ 2 → ∃ draw : Codeword, boundMask draw = inverted)

/-- The step `ST a, v` is the collaborator's store and nothing else: every address but `a` reads as before, and ports,
nets and host variables are unchanged (R72, the spec's own decision D17; log entries 10 and 12). -/
def Obligations.StoreStep : Prop :=
  ∀ (s : State) (a v : HExpr), s.script[s.hpc]? = some (.store a v) →
    ∃ m : Memory, step s = .next { s with mem := m, hpc := s.hpc + 1, draws := s.draws + 1 } ∧
      Table.read m (evalExpr s a) = some { cw := BitVec.ofNat 22 (evalExpr s v), high := 0 } ∧
      (∀ b, b ≠ evalExpr s a → Table.read m b = Table.read s.mem b)

/-- The step `LD a -> h` completes at every address, stored to or not, with a word of `RAW_W` bits that is within two
inversions of a stored one and free where nothing is stored; it changes its host variable and nothing else (R43 to R45,
R72: the spec's own decisions D10, D11, D17; log entries 8, 9, 12). -/
def Obligations.LoadStep : Prop :=
  ∀ (s : State) (a : HExpr) (h : HostVar), s.script[s.hpc]? = some (.load a h) →
    ∃ (r : RawWord) (vars' : Table Nat) (n : Nat),
      step s = .next { s with vars := vars', hpc := s.hpc + 1, draws := n } ∧
      Table.read vars' h = some r.toNat ∧ (∀ k, k ≠ h → Table.read vars' k = Table.read s.vars k) ∧
      r.fits = true ∧ (∀ w, Table.read s.mem (evalExpr s a) = some w → popcount (r.cw ^^^ w.cw) ≤ 2)

/-- `FLIP a, m` inverts exactly the mask's bits of a stored word, in bits 0 to 21 and in bits 22 to `RAW_W - 1`, and leaves
every other address alone (R72, the spec's own decision D17). That mask bits at `RAW_W` and above have no effect, and that
at an address never written it changes no address, are the model's inferences (log entry 11, DEDUCED). -/
def Obligations.FlipInvertsExactlyTheMask : Prop :=
  ∀ (s : State) (a m : HExpr), s.script[s.hpc]? = some (.flip a m) →
    ∃ mem' : Memory, step s = .next { s with mem := mem', hpc := s.hpc + 1, draws := s.draws + 1 } ∧
      (∀ b, b ≠ evalExpr s a → Table.read mem' b = Table.read s.mem b) ∧
      (Table.read s.mem (evalExpr s a) = none → mem' = s.mem) ∧
      (∀ w, Table.read s.mem (evalExpr s a) = some w →
        ∃ w', Table.read mem' (evalExpr s a) = some w' ∧ w'.fits = true ∧
          (∀ i, i < 22 → w'.cw.getLsbD i = (w.cw.getLsbD i ^^ (evalExpr s m).testBit i)) ∧
          (∀ i, i < Config.rawHighW → w'.high.testBit i = (w.high.testBit i ^^ (evalExpr s m).testBit (22 + i))))

/-- Host control flow and host-only steps change only the host's own state: `IF cond GOTO n` continues at step `n` (index
`n - 1`) when the condition holds and else at the next step, an assignment sets its variable, HALT and the script's end
change nothing (R72, the spec's own decision D17; log entry 12). The model's choices: that `n` counts the steps of the
expanded script (log entry 24), that GOTO 0 continues at step 1, and that every value but 0 holds (log entry 25). -/
def Obligations.HostOnlySteps : Prop :=
  (∀ (s : State) (c : HExpr) (n : Nat), s.script[s.hpc]? = some (.ifGoto c n) →
    step s = .next { s with hpc := if evalExpr s c ≠ 0 then n - 1 else s.hpc + 1, draws := s.draws + 1 }) ∧
  (∀ (s : State) (h : HostVar) (e : HExpr), s.script[s.hpc]? = some (.assign h e) →
    ∃ vars' : Table Nat, step s = .next { s with vars := vars', hpc := s.hpc + 1, draws := s.draws + 1 } ∧
      Table.read vars' h = some (evalExpr s e) ∧ ∀ k, k ≠ h → Table.read vars' k = Table.read s.vars k) ∧
  (∀ s : State, s.script[s.hpc]? = some .halt → step s = .next s) ∧
  (∀ s : State, s.script.length ≤ s.hpc → step s = .next s)

/-- A load sees the last store at its address. A step that is no ST and no FLIP at `a` leaves the word at `a` as it was. So
after `ST a, v`, which leaves every other address alone, and any number of steps none of which writes at `a`, `LD` of an
expression with that address gives `v[21:0]` up to at most two inverted bits, and changes no address (R51; its extension to
all the host's accesses is the spec's own decision D12, log entry 20; the bound is R42's). -/
def Obligations.StoreThenLoadSeesTheStore : Prop :=
  (∀ (s t : State) (a : Addr), step s = .next t → ¬ WritesAt a s → Table.read t.mem a = Table.read s.mem a) ∧
  (∀ (s : State) (a v : HExpr), s.script[s.hpc]? = some (.store a v) →
    ∃ s' : State, step s = .next s' ∧ s'.hpc = s.hpc + 1 ∧
      (∀ b, b ≠ evalExpr s a → Table.read s'.mem b = Table.read s.mem b) ∧
      ∀ (k : Nat) (t : State) (l : HExpr) (h : HostVar),
        NoWriteAt (evalExpr s a) k s' → runSteps k s' = .next t →
        t.script[t.hpc]? = some (.load l h) → evalExpr t l = evalExpr s a →
        ∃ (u : State) (r : RawWord), step t = .next u ∧ u.hpc = t.hpc + 1 ∧ Table.read u.vars h = some r.toNat ∧
          popcount (r.cw ^^^ BitVec.ofNat 22 (evalExpr s v)) ≤ 2 ∧ ∀ b, Table.read u.mem b = Table.read t.mem b)

/-- WRITE then READ of one address, whatever bits the collaborator inverts within its contract: the Decoder's status
reports the number of inverted bits, the written data comes back whenever it says ok, and it says not ok exactly when two
bits were inverted (R40, R44, R72, R150, R151: the spec's own decisions D10, D17 and inferences; that the store leaves zeros
above bit 21 is log entry 10's, DEDUCED). The data is any expression, the address any that the host variables written on
the way do not change. -/
def Obligations.WriteThenReadIsNeverSilentlyWrong : Prop :=
  ∀ (s : State) (a e : HExpr) (d : DataWord) (h r : HostVar) (rest : List HostStep),
    s.script.drop s.hpc = writeSteps a e h ++ readSteps a r ++ rest → evalExpr s e = d.toNat → ExprStays a s [h, r] →
    ∃ (t : State) (p : DecPorts) (m : Codeword), runSteps 4 s = .next t ∧
      t.hpc = s.hpc + 4 ∧ t.dec = some p ∧ popcount m ≤ 2 ∧ p.raw.cw = encodeData d ^^^ m ∧
      (p.status = .noError ↔ popcount m = 0) ∧
      (p.status = .correctedData ↔ popcount m = 1 ∧ countOnes m 16 = 1) ∧
      (p.status = .redundancyError ↔ popcount m = 1 ∧ countOnes m 16 = 0) ∧
      (p.status = .uncorrectable ↔ popcount m = 2) ∧
      (p.ok = true → p.data = d) ∧ (p.ok = false ↔ popcount m = 2) ∧
      Table.read t.mem (evalExpr s a) = some { cw := encodeData d, high := 0 } ∧
      ∀ b, b ≠ evalExpr s a → Table.read t.mem b = Table.read s.mem b

/-- SCRUB of an address that holds a codeword, with any bits above it, never damages it: whatever the load inverts within
its contract, the scrub ends at its last step with that codeword still stored and every other address unchanged (R72, R44,
R150: the spec's own decisions D10, D17 and inferences). The bits above the codeword stay as they were, or a rewrite has
cleared them (log entry 10, DEDUCED). The address is any expression that the host variables written on the way do not
change; that the six steps take six step numbers is the model's choice (log entry 24). -/
def Obligations.ScrubKeepsTheStoredCodeword : Prop :=
  ∀ (s : State) (a : HExpr) (d : DataWord) (g : Nat) (r h : HostVar) (rest : List HostStep),
    s.script.drop s.hpc = scrubSteps (s.hpc + 1) a r h ++ rest → ExprStays a s [h, r] →
    Table.read s.mem (evalExpr s a) = some { cw := encodeData d, high := g } →
    ∃ (k : Nat) (t : State) (w : RawWord), k ≤ 6 ∧ runSteps k s = .next t ∧ t.hpc = s.hpc + 6 ∧
      Table.read t.mem (evalExpr s a) = some w ∧ w.cw = encodeData d ∧ (w.high = g ∨ w.high = 0) ∧
      ∀ b, b ≠ evalExpr s a → Table.read t.mem b = Table.read s.mem b

/-! ### The invariant and reset -/

/-- Every step keeps the invariant: each driven group's outputs are the functions of its inputs, memory is in canonical
form, every stored word has `RAW_W` bits, and the host stays within a well-formed script (R28, R31, R121, R141, R180; the
memory's form and the script are the model's choices, log entries 7 and 12). -/
def Obligations.StepKeepsTheInvariant : Prop :=
  ∀ s t : State, s.Inv → step s = .next t → t.Inv

/-- The reset state meets the invariant. -/
def Obligations.ResetMeetsTheInvariant : Prop := State.reset.Inv

/-- At reset no port group and no unit is driven and no output has a value, no address has been written and no host
variable set (R32 and R180, the spec's own decision D14; log entries 3, 9, 12, 13). -/
def Obligations.ResetHasNothingDriven : Prop :=
  State.reset.enc = none ∧ State.reset.dec = none ∧ (∀ p : Port, State.reset.output p = none) ∧
  (∀ a, Table.read State.reset.mem a = none) ∧ (∀ h, Table.read State.reset.vars h = none) ∧
  step State.reset = .next State.reset

/-! ### No step stops -/

/-- From every state a step answers a next state: no host step, no operation and no number driven stops the machine (R69,
R160, R162; a number too wide for its input: log entry 14; HALT and the script's end: log entry 12). -/
def Obligations.EveryStepAnswersANextState : Prop := ∀ s : State, ∃ t : State, step s = .next t
end

