-- ==== Sys2Proof/Laws/Memory.lean ====
section
/-! SUPPORT. Maps in canonical form: what a read sees of a write, and that a write keeps the form. The collaborator's
memory and the host's variables are such maps. -/

namespace Sys2Proof.Machine

variable {α : Type}

@[simp] theorem Table.read_nil (k : Nat) : Table.read ([] : Table α) k = none := rfl

theorem Table.read_cons (a : Nat) (v : α) (t : Table α) (k : Nat) :
    Table.read ((a, v) :: t) k = if k = a then some v else Table.read t k := rfl

/-- A read after a write to the same key gives the value written. -/
@[simp] theorem Table.read_write_same (t : Table α) (k : Nat) (v : α) : Table.read (Table.write t k v) k = some v := by
  induction t with
  | nil => simp [Table.write, Table.read]
  | cons x t ih =>
    obtain ⟨a, u⟩ := x
    unfold Table.write
    split
    · simp [Table.read]
    · split
      · simp [Table.read]
      · simp [Table.read, *]

/-- A write leaves every other key alone. -/
theorem Table.read_write_other (t : Table α) {k j : Nat} (v : α) (h : j ≠ k) :
    Table.read (Table.write t k v) j = Table.read t j := by
  induction t with
  | nil => simp [Table.write, Table.read, h]
  | cons x t ih =>
    obtain ⟨a, u⟩ := x
    unfold Table.write
    split
    · simp [Table.read, h]
    · split
      · subst_vars; simp [Table.read, h]
      · simp [Table.read, ih]

theorem Table.read_write (t : Table α) (k j : Nat) (v : α) :
    Table.read (Table.write t k v) j = if j = k then some v else Table.read t j := by
  split
  · next h => rw [h, Table.read_write_same]
  · next h => exact Table.read_write_other t v h

/-- A written map's entries are the written one and entries of the old map. -/
theorem Table.mem_write {t : Table α} {k : Nat} {v : α} {x : Nat × α} (h : x ∈ Table.write t k v) :
    x = (k, v) ∨ x ∈ t := by
  induction t with
  | nil => simpa [Table.write] using h
  | cons y t ih =>
    obtain ⟨a, u⟩ := y
    unfold Table.write at h
    split at h
    · simpa using h
    · split at h
      · simp only [List.mem_cons] at h ⊢; tauto
      · simp only [List.mem_cons] at h ⊢
        rcases h with h | h
        · exact .inr (.inl h)
        · rcases ih h with h | h
          · exact .inl h
          · exact .inr (.inr h)

/-- A write keeps the canonical form. -/
theorem Table.write_wf {t : Table α} (h : Table.wf t) (k : Nat) (v : α) : Table.wf (Table.write t k v) := by
  induction t with
  | nil => simp [Table.write]
  | cons y t ih =>
    obtain ⟨a, u⟩ := y
    rw [Table.wf, List.pairwise_cons] at h
    unfold Table.write
    split
    · next hlt =>
      refine List.pairwise_cons.2 ⟨?_, List.pairwise_cons.2 h⟩
      intro y hy
      rcases List.mem_cons.1 hy with rfl | hy
      · exact hlt
      · exact lt_trans hlt (h.1 y hy)
    · split
      · next heq => subst heq; exact List.pairwise_cons.2 h
      · refine List.pairwise_cons.2 ⟨?_, ih h.2⟩
        intro y hy
        rcases Table.mem_write hy with rfl | hy
        · simp only; omega
        · exact h.1 y hy

@[simp] theorem Memory.wf_nil : Memory.wf [] := List.Pairwise.nil

end Sys2Proof.Machine
end

