-- ==== Sys2Proof/Laws/Ops.lean ====
section
/-! SUPPORT. XOR sums and counts: linearity, congruence, and how parity and count agree. -/

namespace Sys2Proof.Machine

variable {w : Nat}

@[simp] theorem parityBit_zero (v : BitVec w) : parityBit v 0 = false := rfl

theorem parityBit_succ (v : BitVec w) (n : Nat) : parityBit v (n + 1) = (parityBit v n ^^ v.getLsbD n) := rfl

/-- The parity of bits 0 to n-1 reads no other bit. -/
theorem parityBit_congr {w' : Nat} {a : BitVec w} {b : BitVec w'} {n : Nat}
    (h : ∀ i, i < n → a.getLsbD i = b.getLsbD i) : parityBit a n = parityBit b n := by
  induction n with
  | zero => rfl
  | succ n ih =>
    rw [parityBit_succ, parityBit_succ, ih (fun i hi => h i (by omega)), h n (by omega)]

/-- Parity is linear. -/
theorem parityBit_xor (a b : BitVec w) (n : Nat) :
    parityBit (a ^^^ b) n = (parityBit a n ^^ parityBit b n) := by
  induction n with
  | zero => rfl
  | succ n ih =>
    simp only [parityBit_succ, ih, BitVec.getLsbD_xor]
    cases parityBit a n <;> cases parityBit b n <;> cases a.getLsbD n <;> cases b.getLsbD n <;> rfl

@[simp] theorem countOnes_zero (v : BitVec w) : countOnes v 0 = 0 := rfl

theorem countOnes_succ (v : BitVec w) (n : Nat) : countOnes v (n + 1) = countOnes v n + (v.getLsbD n).toNat := rfl

/-- Parity says whether the count of ones is odd. -/
theorem parityBit_eq_odd (v : BitVec w) (n : Nat) : parityBit v n = decide (countOnes v n % 2 = 1) := by
  induction n with
  | zero => rfl
  | succ n ih =>
    rw [parityBit_succ, countOnes_succ, ih]
    rcases Nat.mod_two_eq_zero_or_one (countOnes v n) with h | h <;> cases v.getLsbD n <;>
      simp [Nat.add_mod, h]

/-- `computeParity` has the parity at bit `n` and no other bit (R101). -/
theorem getLsbD_computeParity (v : BitVec w) (n i : Nat) :
    (computeParity v n).getLsbD i = (decide (i = n) && parityBit v n) := by
  unfold computeParity
  rw [BitVec.getLsbD_shiftLeft, BitVec.getLsbD_setWidth, BitVec.getLsbD_ofBool]
  by_cases h : i = n
  · subst h; simp
  · by_cases h2 : i < n
    · simp [h, h2]
    · have : ¬ (i - n = 0) := by omega
      simp [h, this]

theorem getLsbD_parity21Word (v : BitVec w) (i : Nat) :
    (parity21Word v).getLsbD i = (decide (i = 21) && parity21 v) := getLsbD_computeParity v 21 i

end Sys2Proof.Machine
end

