-- ==== Sys2Proof/Laws/Operands.lean ====
section
/-! SUPPORT. What each bit of an extracted field, an assembled word and a packed vector is; raw words and loads. -/

namespace Sys2Proof.Machine

/-! ### Bits of fields and of assembled words -/

theorem getLsbD_storedData (cw : Codeword) (i : Nat) :
    (storedData cw).getLsbD i = (decide (i < 16) && cw.getLsbD i) := by
  simp [storedData, BitVec.getLsbD_extractLsb']

theorem getLsbD_storedCheckBits (cw : Codeword) (k : Nat) :
    (storedCheckBits cw).getLsbD k = (decide (k < 5) && cw.getLsbD (16 + k)) := by
  simp [storedCheckBits, BitVec.getLsbD_extractLsb']

theorem getLsbD_packCheckBits (cb16 cb8 cb4 cb2 cb1 : Bool) (k : Nat) :
    (packCheckBits cb16 cb8 cb4 cb2 cb1).getLsbD k =
      if k = 0 then cb1 else if k = 1 then cb2 else if k = 2 then cb4 else if k = 3 then cb8
      else if k = 4 then cb16 else false := by
  by_cases h : k < 5
  · have hk : k = 0 ∨ k = 1 ∨ k = 2 ∨ k = 3 ∨ k = 4 := by omega
    rcases hk with rfl | rfl | rfl | rfl | rfl <;>
      revert cb16 cb8 cb4 cb2 cb1 <;> decide
  · rw [BitVec.getLsbD_of_ge _ _ (by omega)]
    simp [show k ≠ 0 by omega, show k ≠ 1 by omega, show k ≠ 2 by omega, show k ≠ 3 by omega, show k ≠ 4 by omega]

/-- Bit `k` of `CHECKBITS(data)` is the parity over covering set `k` (R111). -/
theorem getLsbD_checkBits (data : DataWord) {k : Nat} (h : k < 5) :
    (checkBits data).getLsbD k = coverParity COVER[k] data := by
  have hk : k = 0 ∨ k = 1 ∨ k = 2 ∨ k = 3 ∨ k = 4 := by omega
  rcases hk with rfl | rfl | rfl | rfl | rfl <;> rw [checkBits, getLsbD_packCheckBits] <;> rfl

theorem getLsbD_assemblePartial (cbv : CheckBits) (data : DataWord) (i : Nat) :
    (assemblePartial cbv data).getLsbD i =
      if i < 16 then data.getLsbD i else if i < 21 then cbv.getLsbD (i - 16) else false := by
  by_cases h : i < 16
  · simp [assemblePartial, h, show i < 21 by omega]
  · by_cases h2 : i < 21
    · simp [assemblePartial, h, h2, BitVec.getLsbD_of_ge data i (by omega)]
    · simp [assemblePartial, h, h2]

theorem getLsbD_assembleCodeword (part : BitVec 21) (pword : Codeword) (i : Nat) :
    (assembleCodeword part pword).getLsbD i = (part.getLsbD i || pword.getLsbD i) := by
  by_cases h : i < 22
  · simp [assembleCodeword, h]
  · simp [assembleCodeword, h, BitVec.getLsbD_of_ge part i (by omega)]

/-! ### Raw words -/

theorem cutHigh_lt (n : Nat) : cutHigh n < 2 ^ Config.rawHighW := Nat.mod_lt _ (Nat.two_pow_pos _)

theorem RawWord.fits_iff (r : RawWord) : r.fits = true ↔ r.high < 2 ^ Config.rawHighW := by
  unfold RawWord.fits
  simp only [Bool.or_eq_true, beq_iff_eq, decide_eq_true_eq]
  refine ⟨?_, .inr⟩
  rintro (h | h)
  · exact h ▸ Nat.two_pow_pos _
  · exact h

@[simp] theorem zextRaw_fits (cw : Codeword) : (zextRaw cw).fits = true := rfl

@[simp] theorem xorRaw_fits (a m : RawWord) : (xorRaw a m).fits = true :=
  (RawWord.fits_iff _).2 (cutHigh_lt _)

@[simp] theorem unwrittenRaw_fits (n : Nat) : (unwrittenRaw n).fits = true :=
  (RawWord.fits_iff _).2 (cutHigh_lt _)

/-- Every loaded word has `RAW_W` bits (R43 to R45). -/
@[simp] theorem loadWord_fits (m : Memory) (a : Addr) (n : Nat) : (loadWord m a n).fits = true := by
  unfold loadWord; split <;> simp

/-- The bounded draw has at most `FLIP_BOUND` ones. -/
theorem popcount_boundMask_le (m : Codeword) : popcount (boundMask m) ≤ Config.flipBound := by
  unfold boundMask
  split
  · assumption
  · decide

/-- No mask under the bound is left out of the bounded draw. -/
theorem boundMask_of_le {m : Codeword} (h : popcount m ≤ Config.flipBound) : boundMask m = m := if_pos h

/-- A raw word read as a number and back is the word. -/
@[simp] theorem RawWord.ofNat_toNat (r : RawWord) : RawWord.ofNat r.toNat = r := by
  obtain ⟨cw, high⟩ := r
  have hlt := cw.isLt
  simp only [RawWord.ofNat, RawWord.toNat, RawWord.mk.injEq]
  refine ⟨?_, by omega⟩
  apply BitVec.eq_of_toNat_eq
  rw [BitVec.toNat_ofNat]
  omega

/-- A number and its raw word: the number is below `2^RAW_W` exactly when the word fits. -/
theorem RawWord.ofNat_fits_iff (n : Nat) : (RawWord.ofNat n).fits = true ↔ n < 2 ^ Config.rawW := by
  rw [RawWord.fits_iff, RawWord.ofNat, Config.rawW, pow_add, Nat.div_lt_iff_lt_mul (by norm_num), Nat.mul_comm]

@[simp] theorem RawWord.toNat_ofNat (n : Nat) : (RawWord.ofNat n).toNat = n := by
  simp only [RawWord.ofNat, RawWord.toNat, BitVec.toNat_ofNat]
  omega

/-! ### The Decoder's outcomes -/

theorem DecStatus.ok_iff (st : DecStatus) : st.ok = true ↔ st ≠ .uncorrectable := by cases st <;> decide

theorem classify_uncorrectable (perr hit : Bool) (syn : Syndrome) :
    classify perr hit syn = .uncorrectable ↔ perr = false ∧ syn ≠ 0 := by
  unfold classify
  cases perr <;> cases hit <;> by_cases h : syn = 0 <;> simp [h]

end Sys2Proof.Machine
end

