-- ==== Sys2Proof/Laws/Codec.lean ====
section
/-! SUPPORT. The codec's functions bit by bit, for later proofs to cite instead of unfolding them. -/

namespace Sys2Proof.Machine

/-- Each bit of a codeword (R60, R121). -/
theorem getLsbD_encodeData (d : DataWord) (i : Nat) :
    (encodeData d).getLsbD i =
      if i < 16 then d.getLsbD i else if i < 21 then (checkBits d).getLsbD (i - 16)
      else if i = 21 then parity21 (assemblePartial (checkBits d) d) else false := by
  unfold encodeData
  rw [getLsbD_assembleCodeword, getLsbD_assemblePartial, getLsbD_parity21Word]
  by_cases h1 : i < 16
  · simp [h1]; omega
  · by_cases h2 : i < 21
    · simp [h1, h2]; omega
    · by_cases h3 : i = 21 <;> simp [h1, h2, h3]

/-- One check bit is linear in the data. -/
theorem coverParity_xor (mask a b : DataWord) :
    coverParity mask (a ^^^ b) = (coverParity mask a ^^ coverParity mask b) := by
  unfold coverParity
  rw [← parityBit_xor]
  congr 1
  apply BitVec.eq_of_getLsbD_eq
  intro i _
  simp only [BitVec.getLsbD_and, BitVec.getLsbD_xor]
  cases a.getLsbD i <;> cases b.getLsbD i <;> cases mask.getLsbD i <;> rfl

theorem storedData_xor (a b : Codeword) : storedData (a ^^^ b) = storedData a ^^^ storedData b := by
  apply BitVec.eq_of_getLsbD_eq
  intro k hk
  rw [BitVec.getLsbD_xor, getLsbD_storedData, getLsbD_storedData, getLsbD_storedData, BitVec.getLsbD_xor]
  simp only [hk, decide_true, Bool.true_and]

theorem storedCheckBits_xor (a b : Codeword) :
    storedCheckBits (a ^^^ b) = storedCheckBits a ^^^ storedCheckBits b := by
  apply BitVec.eq_of_getLsbD_eq
  intro k hk
  rw [BitVec.getLsbD_xor, getLsbD_storedCheckBits, getLsbD_storedCheckBits, getLsbD_storedCheckBits,
    BitVec.getLsbD_xor]
  simp only [hk, decide_true, Bool.true_and]

/-- The lookup table hits exactly on the SyndromeTable's values (R132). -/
theorem synLookup_hit_iff (s : Syndrome) : (synLookup s).1 = true ↔ s ∈ tableSyndromes := by
  revert s; decide

/-- The Decoder's ports from the parity error, the syndrome and the table's answer: all that a use of `decodeRaw` needs
to know (R141). -/
theorem decodeRaw_eq {cw : Codeword} {perr : Bool} {syn : Syndrome} {look : Bool × BitVec 4} (high : Nat)
    (x : DataWord) (hp : parityErr cw = perr) (hs : wordSyndrome cw = syn) (hl : synLookup syn = look) :
    decodeRaw { cw := cw, high := high } x =
      { raw := { cw := cw, high := high }
        data := decodedData (classify perr look.1 syn) (storedData cw) look.2 x
        ok := (classify perr look.1 syn).ok, status := classify perr look.1 syn
        parityErr := perr, syndrome := syn } := by
  subst hp hs hl
  rfl

end Sys2Proof.Machine
end

