-- ==== Sys2Proof/Laws/State.lean ====
section
/-! SUPPORT. What each update of one part of the state leaves in each field. -/

namespace Sys2Proof.Machine

variable (s : State)

@[simp] theorem State.setEnc_enc (p : EncPorts) : (s.setEnc p).enc = some p := rfl
@[simp] theorem State.setEnc_dec (p : EncPorts) : (s.setEnc p).dec = s.dec := rfl
@[simp] theorem State.setEnc_parityUnit (p : EncPorts) : (s.setEnc p).parityUnit = s.parityUnit := rfl
@[simp] theorem State.setEnc_checkBitUnit (p : EncPorts) : (s.setEnc p).checkBitUnit = s.checkBitUnit := rfl
@[simp] theorem State.setEnc_syndromeUnit (p : EncPorts) : (s.setEnc p).syndromeUnit = s.syndromeUnit := rfl
@[simp] theorem State.setEnc_lookupUnit (p : EncPorts) : (s.setEnc p).lookupUnit = s.lookupUnit := rfl
@[simp] theorem State.setEnc_mem (p : EncPorts) : (s.setEnc p).mem = s.mem := rfl
@[simp] theorem State.setEnc_script (p : EncPorts) : (s.setEnc p).script = s.script := rfl
@[simp] theorem State.setEnc_hpc (p : EncPorts) : (s.setEnc p).hpc = s.hpc := rfl
@[simp] theorem State.setEnc_vars (p : EncPorts) : (s.setEnc p).vars = s.vars := rfl
@[simp] theorem State.setEnc_draws (p : EncPorts) : (s.setEnc p).draws = s.draws := rfl

@[simp] theorem State.setDec_enc (p : DecPorts) : (s.setDec p).enc = s.enc := rfl
@[simp] theorem State.setDec_dec (p : DecPorts) : (s.setDec p).dec = some p := rfl
@[simp] theorem State.setDec_parityUnit (p : DecPorts) : (s.setDec p).parityUnit = s.parityUnit := rfl
@[simp] theorem State.setDec_checkBitUnit (p : DecPorts) : (s.setDec p).checkBitUnit = s.checkBitUnit := rfl
@[simp] theorem State.setDec_syndromeUnit (p : DecPorts) : (s.setDec p).syndromeUnit = s.syndromeUnit := rfl
@[simp] theorem State.setDec_lookupUnit (p : DecPorts) : (s.setDec p).lookupUnit = s.lookupUnit := rfl
@[simp] theorem State.setDec_mem (p : DecPorts) : (s.setDec p).mem = s.mem := rfl
@[simp] theorem State.setDec_script (p : DecPorts) : (s.setDec p).script = s.script := rfl
@[simp] theorem State.setDec_hpc (p : DecPorts) : (s.setDec p).hpc = s.hpc := rfl
@[simp] theorem State.setDec_vars (p : DecPorts) : (s.setDec p).vars = s.vars := rfl
@[simp] theorem State.setDec_draws (p : DecPorts) : (s.setDec p).draws = s.draws := rfl

@[simp] theorem State.setParityUnit_enc (n : ParityNets) : (s.setParityUnit n).enc = s.enc := rfl
@[simp] theorem State.setParityUnit_dec (n : ParityNets) : (s.setParityUnit n).dec = s.dec := rfl
@[simp] theorem State.setParityUnit_parityUnit (n : ParityNets) : (s.setParityUnit n).parityUnit = some n := rfl
@[simp] theorem State.setParityUnit_checkBitUnit (n : ParityNets) : (s.setParityUnit n).checkBitUnit = s.checkBitUnit := rfl
@[simp] theorem State.setParityUnit_syndromeUnit (n : ParityNets) : (s.setParityUnit n).syndromeUnit = s.syndromeUnit := rfl
@[simp] theorem State.setParityUnit_lookupUnit (n : ParityNets) : (s.setParityUnit n).lookupUnit = s.lookupUnit := rfl
@[simp] theorem State.setParityUnit_mem (n : ParityNets) : (s.setParityUnit n).mem = s.mem := rfl
@[simp] theorem State.setParityUnit_script (n : ParityNets) : (s.setParityUnit n).script = s.script := rfl
@[simp] theorem State.setParityUnit_hpc (n : ParityNets) : (s.setParityUnit n).hpc = s.hpc := rfl
@[simp] theorem State.setParityUnit_vars (n : ParityNets) : (s.setParityUnit n).vars = s.vars := rfl
@[simp] theorem State.setParityUnit_draws (n : ParityNets) : (s.setParityUnit n).draws = s.draws := rfl

@[simp] theorem State.setCheckBitUnit_enc (n : CheckBitNets) : (s.setCheckBitUnit n).enc = s.enc := rfl
@[simp] theorem State.setCheckBitUnit_dec (n : CheckBitNets) : (s.setCheckBitUnit n).dec = s.dec := rfl
@[simp] theorem State.setCheckBitUnit_parityUnit (n : CheckBitNets) : (s.setCheckBitUnit n).parityUnit = s.parityUnit := rfl
@[simp] theorem State.setCheckBitUnit_checkBitUnit (n : CheckBitNets) : (s.setCheckBitUnit n).checkBitUnit = some n := rfl
@[simp] theorem State.setCheckBitUnit_syndromeUnit (n : CheckBitNets) : (s.setCheckBitUnit n).syndromeUnit = s.syndromeUnit := rfl
@[simp] theorem State.setCheckBitUnit_lookupUnit (n : CheckBitNets) : (s.setCheckBitUnit n).lookupUnit = s.lookupUnit := rfl
@[simp] theorem State.setCheckBitUnit_mem (n : CheckBitNets) : (s.setCheckBitUnit n).mem = s.mem := rfl
@[simp] theorem State.setCheckBitUnit_script (n : CheckBitNets) : (s.setCheckBitUnit n).script = s.script := rfl
@[simp] theorem State.setCheckBitUnit_hpc (n : CheckBitNets) : (s.setCheckBitUnit n).hpc = s.hpc := rfl
@[simp] theorem State.setCheckBitUnit_vars (n : CheckBitNets) : (s.setCheckBitUnit n).vars = s.vars := rfl
@[simp] theorem State.setCheckBitUnit_draws (n : CheckBitNets) : (s.setCheckBitUnit n).draws = s.draws := rfl

@[simp] theorem State.setSyndromeUnit_enc (n : SyndromeNets) : (s.setSyndromeUnit n).enc = s.enc := rfl
@[simp] theorem State.setSyndromeUnit_dec (n : SyndromeNets) : (s.setSyndromeUnit n).dec = s.dec := rfl
@[simp] theorem State.setSyndromeUnit_parityUnit (n : SyndromeNets) : (s.setSyndromeUnit n).parityUnit = s.parityUnit := rfl
@[simp] theorem State.setSyndromeUnit_checkBitUnit (n : SyndromeNets) : (s.setSyndromeUnit n).checkBitUnit = s.checkBitUnit := rfl
@[simp] theorem State.setSyndromeUnit_syndromeUnit (n : SyndromeNets) : (s.setSyndromeUnit n).syndromeUnit = some n := rfl
@[simp] theorem State.setSyndromeUnit_lookupUnit (n : SyndromeNets) : (s.setSyndromeUnit n).lookupUnit = s.lookupUnit := rfl
@[simp] theorem State.setSyndromeUnit_mem (n : SyndromeNets) : (s.setSyndromeUnit n).mem = s.mem := rfl
@[simp] theorem State.setSyndromeUnit_script (n : SyndromeNets) : (s.setSyndromeUnit n).script = s.script := rfl
@[simp] theorem State.setSyndromeUnit_hpc (n : SyndromeNets) : (s.setSyndromeUnit n).hpc = s.hpc := rfl
@[simp] theorem State.setSyndromeUnit_vars (n : SyndromeNets) : (s.setSyndromeUnit n).vars = s.vars := rfl
@[simp] theorem State.setSyndromeUnit_draws (n : SyndromeNets) : (s.setSyndromeUnit n).draws = s.draws := rfl

@[simp] theorem State.setLookupUnit_enc (n : LookupNets) : (s.setLookupUnit n).enc = s.enc := rfl
@[simp] theorem State.setLookupUnit_dec (n : LookupNets) : (s.setLookupUnit n).dec = s.dec := rfl
@[simp] theorem State.setLookupUnit_parityUnit (n : LookupNets) : (s.setLookupUnit n).parityUnit = s.parityUnit := rfl
@[simp] theorem State.setLookupUnit_checkBitUnit (n : LookupNets) : (s.setLookupUnit n).checkBitUnit = s.checkBitUnit := rfl
@[simp] theorem State.setLookupUnit_syndromeUnit (n : LookupNets) : (s.setLookupUnit n).syndromeUnit = s.syndromeUnit := rfl
@[simp] theorem State.setLookupUnit_lookupUnit (n : LookupNets) : (s.setLookupUnit n).lookupUnit = some n := rfl
@[simp] theorem State.setLookupUnit_mem (n : LookupNets) : (s.setLookupUnit n).mem = s.mem := rfl
@[simp] theorem State.setLookupUnit_script (n : LookupNets) : (s.setLookupUnit n).script = s.script := rfl
@[simp] theorem State.setLookupUnit_hpc (n : LookupNets) : (s.setLookupUnit n).hpc = s.hpc := rfl
@[simp] theorem State.setLookupUnit_vars (n : LookupNets) : (s.setLookupUnit n).vars = s.vars := rfl
@[simp] theorem State.setLookupUnit_draws (n : LookupNets) : (s.setLookupUnit n).draws = s.draws := rfl

@[simp] theorem State.setMem_enc (m : Memory) : (s.setMem m).enc = s.enc := rfl
@[simp] theorem State.setMem_dec (m : Memory) : (s.setMem m).dec = s.dec := rfl
@[simp] theorem State.setMem_parityUnit (m : Memory) : (s.setMem m).parityUnit = s.parityUnit := rfl
@[simp] theorem State.setMem_checkBitUnit (m : Memory) : (s.setMem m).checkBitUnit = s.checkBitUnit := rfl
@[simp] theorem State.setMem_syndromeUnit (m : Memory) : (s.setMem m).syndromeUnit = s.syndromeUnit := rfl
@[simp] theorem State.setMem_lookupUnit (m : Memory) : (s.setMem m).lookupUnit = s.lookupUnit := rfl
@[simp] theorem State.setMem_mem (m : Memory) : (s.setMem m).mem = m := rfl
@[simp] theorem State.setMem_script (m : Memory) : (s.setMem m).script = s.script := rfl
@[simp] theorem State.setMem_hpc (m : Memory) : (s.setMem m).hpc = s.hpc := rfl
@[simp] theorem State.setMem_vars (m : Memory) : (s.setMem m).vars = s.vars := rfl
@[simp] theorem State.setMem_draws (m : Memory) : (s.setMem m).draws = s.draws := rfl

@[simp] theorem State.setVar_enc (h : HostVar) (n : Nat) : (s.setVar h n).enc = s.enc := rfl
@[simp] theorem State.setVar_dec (h : HostVar) (n : Nat) : (s.setVar h n).dec = s.dec := rfl
@[simp] theorem State.setVar_parityUnit (h : HostVar) (n : Nat) : (s.setVar h n).parityUnit = s.parityUnit := rfl
@[simp] theorem State.setVar_checkBitUnit (h : HostVar) (n : Nat) : (s.setVar h n).checkBitUnit = s.checkBitUnit := rfl
@[simp] theorem State.setVar_syndromeUnit (h : HostVar) (n : Nat) : (s.setVar h n).syndromeUnit = s.syndromeUnit := rfl
@[simp] theorem State.setVar_lookupUnit (h : HostVar) (n : Nat) : (s.setVar h n).lookupUnit = s.lookupUnit := rfl
@[simp] theorem State.setVar_mem (h : HostVar) (n : Nat) : (s.setVar h n).mem = s.mem := rfl
@[simp] theorem State.setVar_script (h : HostVar) (n : Nat) : (s.setVar h n).script = s.script := rfl
@[simp] theorem State.setVar_hpc (h : HostVar) (n : Nat) : (s.setVar h n).hpc = s.hpc := rfl
@[simp] theorem State.setVar_vars (h : HostVar) (n : Nat) : (s.setVar h n).vars = Table.write s.vars h n := rfl
@[simp] theorem State.setVar_draws (h : HostVar) (n : Nat) : (s.setVar h n).draws = s.draws := rfl

@[simp] theorem State.useDraw_enc : s.useDraw.enc = s.enc := rfl
@[simp] theorem State.useDraw_dec : s.useDraw.dec = s.dec := rfl
@[simp] theorem State.useDraw_parityUnit : s.useDraw.parityUnit = s.parityUnit := rfl
@[simp] theorem State.useDraw_checkBitUnit : s.useDraw.checkBitUnit = s.checkBitUnit := rfl
@[simp] theorem State.useDraw_syndromeUnit : s.useDraw.syndromeUnit = s.syndromeUnit := rfl
@[simp] theorem State.useDraw_lookupUnit : s.useDraw.lookupUnit = s.lookupUnit := rfl
@[simp] theorem State.useDraw_mem : s.useDraw.mem = s.mem := rfl
@[simp] theorem State.useDraw_script : s.useDraw.script = s.script := rfl
@[simp] theorem State.useDraw_hpc : s.useDraw.hpc = s.hpc := rfl
@[simp] theorem State.useDraw_vars : s.useDraw.vars = s.vars := rfl
@[simp] theorem State.useDraw_draws : s.useDraw.draws = s.draws + 1 := rfl

@[simp] theorem State.goto_enc (n : Nat) : (s.goto n).enc = s.enc := rfl
@[simp] theorem State.goto_dec (n : Nat) : (s.goto n).dec = s.dec := rfl
@[simp] theorem State.goto_parityUnit (n : Nat) : (s.goto n).parityUnit = s.parityUnit := rfl
@[simp] theorem State.goto_checkBitUnit (n : Nat) : (s.goto n).checkBitUnit = s.checkBitUnit := rfl
@[simp] theorem State.goto_syndromeUnit (n : Nat) : (s.goto n).syndromeUnit = s.syndromeUnit := rfl
@[simp] theorem State.goto_lookupUnit (n : Nat) : (s.goto n).lookupUnit = s.lookupUnit := rfl
@[simp] theorem State.goto_mem (n : Nat) : (s.goto n).mem = s.mem := rfl
@[simp] theorem State.goto_script (n : Nat) : (s.goto n).script = s.script := rfl
@[simp] theorem State.goto_hpc (n : Nat) : (s.goto n).hpc = n := rfl
@[simp] theorem State.goto_vars (n : Nat) : (s.goto n).vars = s.vars := rfl
@[simp] theorem State.goto_draws (n : Nat) : (s.goto n).draws = s.draws := rfl

@[simp] theorem State.advance_enc : s.advance.enc = s.enc := rfl
@[simp] theorem State.advance_dec : s.advance.dec = s.dec := rfl
@[simp] theorem State.advance_parityUnit : s.advance.parityUnit = s.parityUnit := rfl
@[simp] theorem State.advance_checkBitUnit : s.advance.checkBitUnit = s.checkBitUnit := rfl
@[simp] theorem State.advance_syndromeUnit : s.advance.syndromeUnit = s.syndromeUnit := rfl
@[simp] theorem State.advance_lookupUnit : s.advance.lookupUnit = s.lookupUnit := rfl
@[simp] theorem State.advance_mem : s.advance.mem = s.mem := rfl
@[simp] theorem State.advance_script : s.advance.script = s.script := rfl
@[simp] theorem State.advance_hpc : s.advance.hpc = s.hpc + 1 := rfl
@[simp] theorem State.advance_vars : s.advance.vars = s.vars := rfl
@[simp] theorem State.advance_draws : s.advance.draws = s.draws + 1 := rfl

/-! ### The reset state -/

@[simp] theorem State.reset_enc : State.reset.enc = none := rfl
@[simp] theorem State.reset_dec : State.reset.dec = none := rfl
@[simp] theorem State.reset_parityUnit : State.reset.parityUnit = none := rfl
@[simp] theorem State.reset_checkBitUnit : State.reset.checkBitUnit = none := rfl
@[simp] theorem State.reset_syndromeUnit : State.reset.syndromeUnit = none := rfl
@[simp] theorem State.reset_lookupUnit : State.reset.lookupUnit = none := rfl
@[simp] theorem State.reset_mem : State.reset.mem = [] := rfl
@[simp] theorem State.reset_script : State.reset.script = [] := rfl
@[simp] theorem State.reset_hpc : State.reset.hpc = 0 := rfl
@[simp] theorem State.reset_vars : State.reset.vars = [] := rfl
@[simp] theorem State.reset_draws : State.reset.draws = 0 := rfl

end Sys2Proof.Machine
end

