-- ==== Sys2Proof/Laws/HostScript.lean ====
section
/-! SUPPORT. Once for each: what an operation does, what a host step does, what a step of the machine does. -/

namespace Sys2Proof.Machine

/-- The state an operation leaves. -/
def execState (i : Instr) (s : State) : State :=
  match i with
  | .parity21 w => s.setParityUnit { w := w, p := parity21 w, pword := parity21Word w }
  | .checkbits data => s.setCheckBitUnit { data := data, cbv := checkBits data }
  | .encode data => s.setEnc { data := data, cw := encodeData data }
  | .syndrome st rc => s.setSyndromeUnit { stored := st, recomputed := rc, syndrome := syndromeOf st rc }
  | .synlookup syn => s.setLookupUnit { s := syn, hit := (synLookup syn).1, index := (synLookup syn).2 }
  | .decode raw => (s.setDec (decodeRaw raw (Config.uncorrData s.draws))).useDraw

/-- Every operation answers its state. -/
theorem exec_eq (i : Instr) (s : State) : exec i s = .next (execState i s) := by cases i <;> rfl

/-- No operation touches the collaborator or the host. -/
@[simp] theorem execState_mem (i : Instr) (s : State) : (execState i s).mem = s.mem := by cases i <;> rfl
@[simp] theorem execState_script (i : Instr) (s : State) : (execState i s).script = s.script := by cases i <;> rfl
@[simp] theorem execState_hpc (i : Instr) (s : State) : (execState i s).hpc = s.hpc := by cases i <;> rfl
@[simp] theorem execState_vars (i : Instr) (s : State) : (execState i s).vars = s.vars := by cases i <;> rfl

/-- What a drive runs on a word of the input. -/
theorem drivenInstr_of_ok {op : Op} {v : Nat} {i : Instr} (n : Nat)
    (h : Sys2Proof.decode { op := op, value := v } = .ok i) : drivenInstr op v n = i := by
  unfold drivenInstr
  rw [h]

/-- What a drive runs on a number with more bits than the input. -/
theorem drivenInstr_of_error {op : Op} {v : Nat} {e : DecodeError} (n : Nat)
    (h : Sys2Proof.decode { op := op, value := v } = .error e) :
    drivenInstr op v n = instrOfBits op (Config.wideDrive op n) := by
  unfold drivenInstr
  rw [h]

/-- A word of the bits an input has is well formed and belongs to its row. -/
@[simp] theorem instrOfBits_wellFormed (op : Op) (x : Nat) : (instrOfBits op x).wellFormed = true := by
  cases op with
  | decode => exact (RawWord.fits_iff _).2 (cutHigh_lt _)
  | parity21 | checkbits | encode | syndrome | synlookup => rfl

@[simp] theorem encode_instrOfBits_op (op : Op) (x : Nat) : (Sys2Proof.encode (instrOfBits op x)).op = op := by
  cases op <;> rfl

/-- The state a drive step leaves, running operation `i`. -/
def driveState (i : Instr) (op : Op) (dst : Option HostVar) (s : State) : State :=
  finishDrive op dst (execState i s)

/-- Every drive step answers its state. -/
theorem runDrive_eq (op : Op) (e : HExpr) (dst : Option HostVar) (s : State) :
    runDrive op e dst s = .next (driveState (drivenInstr op (evalExpr s e) s.draws) op dst s) := by
  unfold runDrive driveState
  simp only [exec_eq]

theorem runDrive_of_ok {op : Op} {e : HExpr} {dst : Option HostVar} {s : State} {i : Instr}
    (h : Sys2Proof.decode { op := op, value := evalExpr s e } = .ok i) :
    runDrive op e dst s = .next (driveState i op dst s) := by
  rw [runDrive_eq, drivenInstr_of_ok s.draws h]

@[simp] theorem finishDrive_mem (op : Op) (dst : Option HostVar) (s : State) : (finishDrive op dst s).mem = s.mem := by
  cases dst <;> rfl
@[simp] theorem finishDrive_script (op : Op) (dst : Option HostVar) (s : State) :
    (finishDrive op dst s).script = s.script := by cases dst <;> rfl
@[simp] theorem finishDrive_hpc (op : Op) (dst : Option HostVar) (s : State) :
    (finishDrive op dst s).hpc = s.hpc + 1 := by cases dst <;> rfl
@[simp] theorem finishDrive_enc (op : Op) (dst : Option HostVar) (s : State) : (finishDrive op dst s).enc = s.enc := by
  cases dst <;> rfl
@[simp] theorem finishDrive_dec (op : Op) (dst : Option HostVar) (s : State) : (finishDrive op dst s).dec = s.dec := by
  cases dst <;> rfl
@[simp] theorem finishDrive_parityUnit (op : Op) (dst : Option HostVar) (s : State) :
    (finishDrive op dst s).parityUnit = s.parityUnit := by cases dst <;> rfl
@[simp] theorem finishDrive_checkBitUnit (op : Op) (dst : Option HostVar) (s : State) :
    (finishDrive op dst s).checkBitUnit = s.checkBitUnit := by cases dst <;> rfl
@[simp] theorem finishDrive_syndromeUnit (op : Op) (dst : Option HostVar) (s : State) :
    (finishDrive op dst s).syndromeUnit = s.syndromeUnit := by cases dst <;> rfl
@[simp] theorem finishDrive_lookupUnit (op : Op) (dst : Option HostVar) (s : State) :
    (finishDrive op dst s).lookupUnit = s.lookupUnit := by cases dst <;> rfl

theorem finishDrive_vars (op : Op) (dst : Option HostVar) (s : State) :
    (finishDrive op dst s).vars =
      match dst with
      | some h => Table.write s.vars h (s.sample (resultPort op))
      | none => s.vars := by
  cases dst <;> rfl

/-- FLIP changes at most the word at its address, and only if a store has written it. -/
theorem flipRaw_cases (a : Addr) (m : Nat) (s : State) :
    (Table.read s.mem a = none ∧ flipRaw a m s = s) ∨
      ∃ w, Table.read s.mem a = some w ∧
        flipRaw a m s = s.setMem (Table.write s.mem a (xorRaw w (RawWord.ofNat m))) := by
  unfold flipRaw
  cases h : Table.read s.mem a with
  | none => exact .inl ⟨rfl, rfl⟩
  | some w => exact .inr ⟨w, rfl, rfl⟩

/-- FLIP leaves every other address alone. -/
theorem flipRaw_read_other (a : Addr) (m : Nat) (s : State) {b : Addr} (h : b ≠ a) :
    Table.read (flipRaw a m s).mem b = Table.read s.mem b := by
  rcases flipRaw_cases a m s with ⟨-, he⟩ | ⟨w, -, he⟩
  · rw [he]
  · rw [he]; exact Table.read_write_other _ _ h

/-- The collaborator's operations keep the memory's canonical form. -/
theorem storeRaw_mem_wf {s : State} (h : Memory.wf s.mem) (a : Addr) (v : Nat) : Memory.wf (storeRaw a v s).mem :=
  Table.write_wf h _ _

theorem flipRaw_mem_wf {s : State} (h : Memory.wf s.mem) (a : Addr) (m : Nat) : Memory.wf (flipRaw a m s).mem := by
  rcases flipRaw_cases a m s with ⟨-, he⟩ | ⟨w, -, he⟩
  · rw [he]; exact h
  · rw [he]; exact Table.write_wf h _ _

@[simp] theorem loadRaw_mem (a : Addr) (d : HostVar) (s : State) : (loadRaw a d s).mem = s.mem := rfl

theorem reset_mem_wf : Memory.wf State.reset.mem := Memory.wf_nil

/-- One step of the machine, by the host step it fetches. -/
theorem step_of_fetch {s : State} {h : HostStep} (hf : fetch s = some h) : step s = runHostStep h s := by
  unfold step
  rw [hf]

theorem step_of_end {s : State} (hf : fetch s = none) : step s = .next s := by
  unfold step
  rw [hf]

@[simp] theorem runSteps_zero (s : State) : runSteps 0 s = .next s := rfl

theorem runSteps_succ {s t : State} (k : Nat) (h : step s = .next t) : runSteps (k + 1) s = runSteps k t := by
  rw [runSteps, h]

/-- The step that stands at the head of what is left of the script is the one fetched. -/
theorem fetch_of_drop {s : State} {h : HostStep} {rest : List HostStep} (hd : s.script.drop s.hpc = h :: rest) :
    fetch s = some h := by
  have := congrArg (fun l => l[0]?) hd
  simpa [fetch] using this

/-- Everything a step that answers a next state can have done. -/
theorem step_next_cases {s t : State} (h : step s = .next t) :
    (t = s ∧ (fetch s = none ∨ fetch s = some .halt)) ∨
    (∃ op e dst, fetch s = some (.drive op e dst) ∧
      t = driveState (drivenInstr op (evalExpr s e) s.draws) op dst s) ∨
    (∃ a v, fetch s = some (.store a v) ∧ t = (storeRaw (evalExpr s a) (evalExpr s v) s).advance) ∨
    (∃ a d, fetch s = some (.load a d) ∧ t = (loadRaw (evalExpr s a) d s).advance) ∨
    (∃ a m, fetch s = some (.flip a m) ∧ t = (flipRaw (evalExpr s a) (evalExpr s m) s).advance) ∨
    (∃ c n, fetch s = some (.ifGoto c n) ∧ t = runIfGoto c n s) ∨
    (∃ v e, fetch s = some (.assign v e) ∧ t = (s.setVar v (evalExpr s e)).advance) := by
  cases hf : fetch s with
  | none =>
    rw [step_of_end hf] at h
    exact .inl ⟨(Host.Outcome.next.inj h).symm, .inl rfl⟩
  | some k =>
    rw [step_of_fetch hf] at h
    cases k with
    | drive op e dst =>
      exact .inr (.inl ⟨op, e, dst, rfl, (Host.Outcome.next.inj ((runDrive_eq op e dst s).symm.trans h)).symm⟩)
    | store a v => exact .inr (.inr (.inl ⟨a, v, rfl, (Host.Outcome.next.inj h).symm⟩))
    | load a d => exact .inr (.inr (.inr (.inl ⟨a, d, rfl, (Host.Outcome.next.inj h).symm⟩)))
    | flip a m => exact .inr (.inr (.inr (.inr (.inl ⟨a, m, rfl, (Host.Outcome.next.inj h).symm⟩))))
    | ifGoto c n => exact .inr (.inr (.inr (.inr (.inr (.inl ⟨c, n, rfl, (Host.Outcome.next.inj h).symm⟩)))))
    | assign v e => exact .inr (.inr (.inr (.inr (.inr (.inr ⟨v, e, rfl, (Host.Outcome.next.inj h).symm⟩)))))
    | halt => exact .inl ⟨(Host.Outcome.next.inj h).symm, .inr rfl⟩

end Sys2Proof.Machine
end

