-- ==== Sys2Proof/Laws/PerInstr.lean ====
section
/-! SUPPORT. A fact of every operation as syntax: what the encoder writes for a well-formed operation is a number the
operation's input can carry (spec/30_encoding.md R67). One lemma per constructor. -/

namespace Sys2Proof.Laws.EncodeFits

open Sys2Proof.Machine

/-- The encoded number of a well-formed operation fits the operation's input, under the operation's own selection. -/
def Statement (i : Instr) : Prop :=
  i.wellFormed = true → PortCarries (Sys2Proof.encode i).op (Sys2Proof.encode i).value

theorem parity21 (w : BitVec 21) : Statement (.parity21 w) := fun _ => trivial

theorem checkbits (data : DataWord) : Statement (.checkbits data) := fun _ => data.isLt

theorem encode (data : DataWord) : Statement (.encode data) := fun _ => data.isLt

theorem syndrome (stored recomputed : CheckBits) : Statement (.syndrome stored recomputed) := fun _ => by
  have h1 := stored.isLt
  have h2 := recomputed.isLt
  show stored.toNat * 2 ^ 5 + recomputed.toNat < 2 ^ 10
  omega

theorem synlookup (s : Syndrome) : Statement (.synlookup s) := fun _ => s.isLt

theorem decode (raw : RawWord) : Statement (.decode raw) := fun h => by
  have h2 : (RawWord.ofNat raw.toNat).fits = true := by rw [RawWord.ofNat_toNat]; exact h
  exact (RawWord.ofNat_fits_iff _).1 h2

end Sys2Proof.Laws.EncodeFits
end

