-- ==== Sys2Proof/Tests/Slice0.lean ====
section
/-! SUPPORT. Tests of the model, their expected results from spec/95_test_vectors.md and the rules' examples, and for
each statement with hypotheses a state and operands that meet them. -/

namespace Sys2Proof.Tests

open Sys2Proof.Machine

/-- The next state of an outcome, as comparable data. -/
def nextOf (o : Host.Outcome State Fault Refusal) : Option State :=
  match o with
  | .next s => some s
  | .fault _ => none
  | .refused _ => none

/-- The reset state with a script loaded. -/
def scripted (script : List HostStep) : State := { State.reset with script := script }

/-- The same with one word stored at address 0x10, as after step 2 of program P1. -/
def stored (script : List HostStep) : State := { scripted script with mem := [(0x10, { cw := 0x191234, high := 0 })] }

/-! ### Well-formedness: an ill-formed term for each check, and what it refuses -/

theorem test_wf_refuses_a_raw_word_too_wide (cw : Codeword) :
    (Instr.decode { cw := cw, high := 2 ^ Config.rawHighW }).wellFormed = false := by
  simp [Instr.wellFormed, RawWord.fits]

theorem test_wf_accepts_the_widest_raw_word (cw : Codeword) :
    (Instr.decode { cw := cw, high := 2 ^ Config.rawHighW - 1 }).wellFormed = true := by
  simp [Instr.wellFormed, RawWord.fits]

theorem test_wf_refuses_goto_zero : scriptWellFormed [.ifGoto (.const 1) 0] = false := by decide
theorem test_wf_refuses_goto_past_the_end : scriptWellFormed [.ifGoto (.const 1) 2] = false := by decide
theorem test_wf_accepts_goto_last_step : scriptWellFormed [.ifGoto (.const 1) 2, .halt] = true := by decide

/-! ### Decoding: each row's word written out from its pattern in spec/opcode_table.json -/

/-- w = 0x1EFFFF, bits 20..0. -/
theorem test_decode_parity21 :
    Sys2Proof.decode { op := .parity21, value := 0b1_1110_1111_1111_1111_1111 } = .ok (.parity21 0x1EFFFF) := rfl
/-- R102: bits 21 and above are ignored (`PARITY21(0xFFFFFFFF)` of the vectors). -/
theorem test_decode_parity21_ignores_high_bits :
    Sys2Proof.decode { op := .parity21, value := 0xFFFFFFFF } = .ok (.parity21 0x1FFFFF) := rfl
theorem test_decode_checkbits :
    Sys2Proof.decode { op := .checkbits, value := 0b0001_0010_0011_0100 } = .ok (.checkbits 0x1234) := rfl
theorem test_decode_encode :
    Sys2Proof.decode { op := .encode, value := 0b1010_1011_1100_1101 } = .ok (.encode 0xABCD) := rfl
/-- sssss = 11001 stored, rrrrr = 11111 recomputed. -/
theorem test_decode_syndrome :
    Sys2Proof.decode { op := .syndrome, value := 0b11001_11111 } = .ok (.syndrome 0b11001 0b11111) := rfl
theorem test_decode_synlookup :
    Sys2Proof.decode { op := .synlookup, value := 0b01100 } = .ok (.synlookup 12) := rfl
/-- p = 0, ccccc = 11001, d = 0x12B4. -/
theorem test_decode_decode :
    Sys2Proof.decode { op := .decode, value := 0b0_11001_0001_0010_1011_0100 } =
      .ok (.decode { cw := 0x1912B4, high := 0 }) := rfl
theorem test_decode_rejects_17_bits :
    Sys2Proof.decode { op := .encode, value := 0x10000 } = .error (.tooWide .encode 0x10000) := rfl

/-- Program P3, step 9: `0x01200000` is codeword `0x200000` under bit 24. -/
theorem test_raw_word_fields : RawWord.ofNat 0x01200000 = { cw := 0x200000, high := 0b100 } := by decide

theorem test_table_word_of_16_bits : decodeTableWord 16 0x1234 = some (.encode 0x1234) := by decide
theorem test_table_word_runs_next :
    (nextOf (step (State.reset.withFetchWord 16 0x1234))).bind (fun t => t.enc) =
      some { data := 0x1234, cw := 0x191234 } := by decide
theorem test_table_word_of_22_bits_runs_next :
    (nextOf (step (State.reset.withFetchWord 24 0x1912B4))).bind (fun t => t.dec.map (fun p => (p.data, p.status))) =
      some (0x1234, .correctedData) := by decide

/-! ### One step of each operation -/

/-- Section 2.1: `PARITY21(0x155555)`, 11 ones. -/
theorem test_parity21 : (nextOf (exec (.parity21 0x155555) State.reset)).bind (fun t => t.parityUnit) =
    some { w := 0x155555, p := true, pword := 0x200000 } := by decide
/-- R101: the example, and a bit at `n` that is not summed. -/
theorem test_computeParity : computeParity (0b1011 : BitVec 4) 4 = 0b10000 ∧ computeParity (0b111 : BitVec 3) 2 = 0 := by
  decide
/-- R111: the example. -/
theorem test_checkbits : (nextOf (exec (.checkbits 0x1234) State.reset)).bind (fun t => t.checkBitUnit) =
    some { data := 0x1234, cbv := 0x19 } := by decide
/-- Section 1.3: a vector that tells the two readings of cb1 apart. -/
theorem test_encode_bit7 : (nextOf (exec (.encode 0x0080) State.reset)).bind (fun t => t.enc) =
    some { data := 0x0080, cw := 0x2C0080 } := by decide
/-- Section 2.3. -/
theorem test_encode_dead : encodeData 0xDEAD = 0x07DEAD ∧ encodeData 0x7FFF = 0x0B7FFF := by decide
/-- Section 2.2. -/
theorem test_syndrome : (nextOf (exec (.syndrome 0b11110 0b11001) State.reset)).bind (fun t => t.syndromeUnit) =
    some { stored := 0b11110, recomputed := 0b11001, syndrome := 7 } := by decide
/-- R132: the examples. -/
theorem test_synlookup_hit : (nextOf (exec (.synlookup 12) State.reset)).bind (fun t => t.lookupUnit) =
    some { s := 12, hit := true, index := 7 } := by decide
theorem test_synlookup_miss : synLookup 16 = (false, 0) ∧ synLookup 31 = (false, 0) ∧ synLookup 21 = (true, 15) := by decide
/-- Section 2.8: three inverted bits, miscorrected. -/
theorem test_decode_miscorrected : decodeRaw (RawWord.ofNat 0x181237) 0xBAD0 =
    { raw := { cw := 0x181237, high := 0 }, data := 0x123F, ok := true, status := .correctedData
      parityErr := true, syndrome := 7 } := by decide
/-- Section 2.7: bits 2 and 17 of `ENCODE(0x1234)`; the data is the draw. -/
theorem test_decode_uncorrectable (x : DataWord) : decodeRaw (RawWord.ofNat 0x1B1230) x =
    { raw := { cw := 0x1B1230, high := 0 }, data := x, ok := false, status := .uncorrectable
      parityErr := false, syndrome := 4 } := rfl

/-! ### One step of each kind of host step -/

/-- Program P1, step 2. -/
theorem test_store : (nextOf (step (scripted [.store (.const 0x10) (.const 0x191234)]))).map (fun t => (t.mem, t.hpc)) =
    some ([(0x10, { cw := 0x191234, high := 0 })], 1) := by decide
/-- Program P1, step 3. -/
theorem test_flip : (flipRaw 0x10 0x80 (stored [])).mem.map (fun e => (e.1, e.2.cw)) = [(0x10, 0x1912B4)] := by decide
/-- An unwritten address stays unwritten (log entry 11). -/
theorem test_flip_unwritten : (flipRaw 0x11 0x80 (stored [])).mem = (stored []).mem := by decide
/-- Addresses stay in rising order, and a second store replaces the first. -/
theorem test_store_order : Table.write (Table.write [(2, 'b'), (5, 'e')] 3 'c') 5 'f' = [(2, 'b'), (3, 'c'), (5, 'f')] := by
  decide
/-- Program P1, step 1: `ENC 0x1234 -> h0`. -/
theorem test_enc_result : (nextOf (step (scripted [enc (.const 0x1234) 0]))).map (fun t => (t.vars, t.hpc)) =
    some ([(0, 0x191234)], 1) := by decide
/-- Program P3, step 13: `h4 | (1 << h3)` with h4 = 0 and h3 = 2. -/
theorem test_host_arithmetic : evalExpr { State.reset with vars := [(3, 2), (4, 0)] }
    (.bor (.var 4) (.shl (.const 1) (.var 3))) = 0b0100 := by decide
/-- Program P2, step 9: `IF h3 < 2 GOTO 6`. -/
theorem test_goto_taken : (runIfGoto (.lt (.var 3) (.const 2)) 6 { State.reset with vars := [(3, 1)], hpc := 9 }).hpc = 5 ∧
    (runIfGoto (.lt (.var 3) (.const 2)) 6 { State.reset with vars := [(3, 2)], hpc := 9 }).hpc = 10 := by decide
theorem test_halt : nextOf (step (scripted [.halt])) = some (scripted [.halt]) := by decide

/-! ### Witnesses: what the statements' hypotheses ask for, at the ends of their ranges -/

/-- DecodeOfEncodeIsTheOperation. -/
theorem witness_wellFormed : (Instr.decode { cw := 0x1912B4, high := 0 }).wellFormed = true ∧
    (Instr.syndrome 31 31).wellFormed = true ∧ (Instr.parity21 0x1FFFFF).wellFormed = true ∧
    (Instr.checkbits 0xFFFF).wellFormed = true ∧ (Instr.encode 0xFFFF).wellFormed = true ∧
    (Instr.synlookup 31).wellFormed = true := by decide

/-- DecodeAcceptsExactlyWhatTheInputCarries and StepRunsATooWideDriveOnAFreeWord: the last number carried and the first not. -/
theorem witness_portCarries :
    PortCarries .parity21 (2 ^ 22) ∧ PortCarries .checkbits 0xFFFF ∧ ¬ PortCarries .checkbits 0x10000 ∧
    PortCarries .encode 0xFFFF ∧ ¬ PortCarries .encode 0x10000 ∧ PortCarries .syndrome 0x3FF ∧
    ¬ PortCarries .syndrome 0x400 ∧ PortCarries .synlookup 31 ∧ ¬ PortCarries .synlookup 32 ∧
    PortCarries .decode (2 ^ Config.rawW - 1) ∧ ¬ PortCarries .decode (2 ^ Config.rawW) := by
  simp [PortCarries]

/-- `enc_data` driven with the first number it cannot carry: the step runs, on a free word. -/
theorem witness_too_wide_drive :
    (scripted [enc (.const 0x10000) 0]).script[(scripted [enc (.const 0x10000) 0]).hpc]? =
      some (.drive .encode (.const 0x10000) (some 0)) ∧
    ¬ PortCarries .encode (evalExpr (scripted [enc (.const 0x10000) 0]) (.const 0x10000)) :=
  ⟨rfl, (by decide : ¬ 0x10000 < 2 ^ 16)⟩

theorem test_too_wide_drive_runs :
    (nextOf (step (scripted [enc (.const 0x10000) 0]))).bind (fun t => t.enc.map (fun p => p.cw)) =
      some (encodeData (BitVec.ofNat 16 (Config.wideDrive .encode 0))) := rfl

/-- The words at the ends of each input are among those a draw can give. -/
theorem test_free_words :
    instrOfBits .syndrome 0x3FF = .syndrome 31 31 ∧ instrOfBits .syndrome 0x33E = .syndrome 0b11001 0b11110 ∧
    instrOfBits .encode 0xFFFF = .encode 0xFFFF ∧ instrOfBits .synlookup 31 = .synlookup 31 ∧
    instrOfBits .checkbits 0x1234 = .checkbits 0x1234 := by decide

/-- ComputeParityIsPositioned: two words that agree below `n` only. FieldExtraction: two raw words that agree in bits 0 to
21 only (section 2.8). -/
theorem witness_agreeing_words :
    (∀ i, i < 2 → (0b111 : BitVec 3).getLsbD i = (0b011 : BitVec 3).getLsbD i) ∧ (0b111 : BitVec 3) ≠ 0b011 ∧
    0x3FD91234 % 2 ^ 22 = 0x191234 % 2 ^ 22 := by decide

/-- ColumnCodeOfEachDataBit, ParityCheckColumns, CheckBitsAreLinear: the ends of the ranges. -/
theorem witness_columns : col 0 = 3 ∧ col 7 = 12 ∧ col 15 = 21 ∧ hcol 16 = 1 ∧ hcol 20 = 16 ∧ hcol 21 = 0 := by decide

/-- ParityFlipLaw: all of bits 0 to 20 inverted. -/
theorem witness_mask_without_parity_bit : (0x1FFFFF : Codeword).getLsbD 21 = false := by decide

/-- DistinctCodewordsDifferInFourBits. -/
theorem witness_distinct_words : (0 : DataWord) ≠ 0x0080 := by decide

/-- TwoFlipsGiveNonzeroSyndrome and SecdedGuarantees: the ends of their ranges. -/
theorem witness_two_flips : 0 < 22 ∧ 21 < 22 ∧ (0 : Nat) ≠ 21 ∧
    wordSyndrome (encodeData 0x0000 ^^^ flipBit 0 ^^^ flipBit 21) = 3 := by decide
theorem witness_single_flips :
    (decodeRaw { cw := encodeData 0x1234 ^^^ flipBit 15, high := 5 } 0).status = .correctedData ∧
    (decodeRaw { cw := encodeData 0x1234 ^^^ flipBit 16, high := 5 } 0).status = .redundancyError ∧
    (decodeRaw { cw := encodeData 0x1234 ^^^ flipBit 21, high := 5 } 0).status = .redundancyError := by decide

/-- StatusCountsInvertedBits: a mask for each status. -/
theorem witness_masks : popcount (0 : Codeword) = 0 ∧
    (popcount (flipBit 15) = 1 ∧ countOnes (flipBit 15) 16 = 1) ∧
    (popcount (flipBit 16) = 1 ∧ countOnes (flipBit 16) 16 = 0) ∧
    popcount (flipBit 20 ^^^ flipBit 21) = 2 := by decide

/-- ClassificationByParityThenSyndrome, DecodedDataWhenOk, OnlyUncorrectableDataIsFree, DecodeResult and
UnlistedSyndromeIsRedundancyError: a word for each outcome, syndromes 21 and 22 among them (section 2.8), and for
OnlyUncorrectableDataIsFree other bits above the codeword. -/
theorem witness_outcomes :
    (decodeRaw (RawWord.ofNat 0x199234) 0).status = .correctedData ∧ (decodeRaw (RawWord.ofNat 0x199234) 0).syndrome = 21 ∧
    (decodeRaw (RawWord.ofNat 0x160000) 0).status = .redundancyError ∧
    (decodeRaw (RawWord.ofNat 0x160000) 0).syndrome = 22 ∧ (decodeRaw (RawWord.ofNat 0x160000) 0).parityErr = true ∧
    (decodeRaw (RawWord.ofNat 0x1F0000) 0).syndrome = 31 ∧
    (decodeRaw (RawWord.ofNat 0x3FFFFF) 0).ok = false ∧ (decodeRaw (RawWord.ofNat 0x191234) 0).ok = true ∧
    (RawWord.ofNat 0x3FD91234).cw = 0x191234 ∧ (RawWord.ofNat 0x3FD91234).high = 0xFF := by decide

/-- BeyondTheContract: masks of odd and even weight. -/
theorem witness_odd_even_masks : popcount (flipBit 0 ^^^ flipBit 1 ^^^ flipBit 16) % 2 = 1 ∧
    popcount (flipBit 0 ^^^ flipBit 1 ^^^ flipBit 2 ^^^ flipBit 21) % 2 = 0 := by decide

/-- UncorrectableErrorReport, OperationsLeaveMemoryAndHostAlone, OperationsDriveOnlyTheirOwnOutputs: an operation that
answers a next state, of each constructor. -/
theorem witness_exec_next (s : State) :
    (∃ t, exec (.parity21 0) s = .next t) ∧ (∃ t, exec (.checkbits 0) s = .next t) ∧
    (∃ t, exec (.encode 0) s = .next t) ∧ (∃ t, exec (.syndrome 0 1) s = .next t) ∧
    (∃ t, exec (.synlookup 3) s = .next t) ∧ (∃ t, exec (.decode (RawWord.ofNat 0)) s = .next t) :=
  ⟨⟨_, rfl⟩, ⟨_, rfl⟩, ⟨_, rfl⟩, ⟨_, rfl⟩, ⟨_, rfl⟩, ⟨_, rfl⟩⟩
theorem witness_other_operations :
    (∀ d, Instr.decode (RawWord.ofNat 0) ≠ .encode d) ∧ (∀ raw, Instr.encode 0 ≠ .decode raw) ∧
    (∀ w, Instr.encode 0 ≠ .parity21 w) ∧ (∀ d, Instr.encode 0 ≠ .checkbits d) ∧
    (∀ a b, Instr.encode 0 ≠ .syndrome a b) ∧ (∀ syn, Instr.encode 0 ≠ .synlookup syn) := by
  refine ⟨?_, ?_, ?_, ?_, ?_, ?_⟩ <;> intros <;> intro h <;> cases h

/-- StepRunsTheDrivenOperation. -/
theorem witness_step_runs :
    (scripted [enc (.const 0x1234) 0]).script[(scripted [enc (.const 0x1234) 0]).hpc]? =
      some (.drive .encode (.const 0x1234) (some 0)) ∧
    Sys2Proof.decode { op := .encode, value := evalExpr (scripted [enc (.const 0x1234) 0]) (.const 0x1234) } =
      .ok (.encode 0x1234) := ⟨rfl, rfl⟩

/-- StoreStep, LoadStep (at a stored and at an unwritten address), FlipInvertsExactlyTheMask (bits above the
codeword in `test_flip_high`), LoadInvertsAtMostTwoBits. -/
theorem witness_memory_steps :
    (stored [.store (.const 0x10) (.const 7)]).script[0]? = some (.store (.const 0x10) (.const 7)) ∧
    (stored [.load (.const 0x10) 1]).script[0]? = some (.load (.const 0x10) 1) ∧
    (stored [.flip (.const 0x10) (.const 0x80)]).script[0]? = some (.flip (.const 0x10) (.const 0x80)) ∧
    Table.read (stored []).mem 0x10 = some { cw := 0x191234, high := 0 } ∧ Table.read (stored []).mem 0x11 = none :=
  ⟨rfl, rfl, rfl, rfl, rfl⟩
/-- Program P3, step 5: `FLIP 0x0, 0x01200000` asks for bits 21 and 24, where `RAW_W` reaches bit 24. -/
theorem test_flip_high (hw : 2 < Config.rawHighW) :
    ((flipRaw 0x10 0x01200000 (stored [])).mem.map (fun e => (e.1, e.2.cw, e.2.high))) = [(0x10, 0x391234, 0b100)] := by
  have h4 : 4 < 2 ^ Config.rawHighW := Nat.lt_of_lt_of_le (by decide : 4 < 2 ^ 3) (Nat.pow_le_pow_right (by decide) hw)
  show [(0x10, 0x391234, cutHigh 4)] = _
  rw [cutHigh, Nat.mod_eq_of_lt h4]
theorem witness_inversion : popcount (flipBit 0 ^^^ flipBit 21) ≤ 2 := by decide

/-- HostOnlySteps: a condition that holds and one that does not, an assignment, HALT, and the script's end. -/
theorem witness_host_steps :
    (scripted [.ifGoto (.const 1) 1]).script[0]? = some (.ifGoto (.const 1) 1) ∧
    evalExpr State.reset (.const 1) ≠ 0 ∧ evalExpr State.reset (.const 0) = 0 ∧
    (scripted [.assign 2 (.const 0)]).script[0]? = some (.assign 2 (.const 0)) ∧
    (scripted [.halt]).script[0]? = some .halt ∧ (scripted []).script.length ≤ (scripted []).hpc := by decide

/-- StoreThenLoadSeesTheStore: a store, a store to another address between, and a load of the first address, its
address given as a host variable. -/
def storeStoreLoad : State :=
  { scripted [.store (.const 0x10) (.const 7), .store (.const 0x11) (.const 9), .load (.var 3) 1] with vars := [(3, 0x10)] }

theorem witness_store_then_load : ∃ s' t : State,
    storeStoreLoad.script[storeStoreLoad.hpc]? = some (.store (.const 0x10) (.const 7)) ∧ step storeStoreLoad = .next s' ∧
    NoWriteAt (evalExpr storeStoreLoad (.const 0x10)) 1 s' ∧ runSteps 1 s' = .next t ∧
    t.script[t.hpc]? = some (.load (.var 3) 1) ∧ evalExpr t (.var 3) = evalExpr storeStoreLoad (.const 0x10) := by
  refine ⟨_, _, rfl, rfl, ⟨?_, fun _ _ => trivial⟩, rfl, rfl, rfl⟩
  rintro ⟨x, y, h | h, ha⟩ <;> cases h
  exact absurd ha (by decide)

/-- The first clause at its boundary: the store itself writes at 0x10 and not at 0x11. -/
theorem witness_writes_at : WritesAt 0x10 storeStoreLoad ∧ ¬ WritesAt 0x11 storeStoreLoad ∧
    (nextOf (step storeStoreLoad)).isSome = true := by
  refine ⟨⟨_, _, .inl rfl, rfl⟩, ?_, by decide⟩
  rintro ⟨x, y, h | h, ha⟩ <;> cases h
  exact absurd ha (by decide)

/-- WriteThenReadIsNeverSilentlyWrong and ScrubKeepsTheStoredCodeword: a literal address stays, and so does a host variable
that is set and is none of those written on the way (program P3's `h3`). -/
theorem witness_literal_stays (s : State) : ExprStays (.const 0x10) s [0, 1] := fun _ _ => rfl
theorem witness_variable_stays : ExprStays (.var 3) storeStoreLoad [0, 1] := by
  intro t ht
  have h : Table.read t.vars 3 = some 0x10 := ht 3 (by decide)
  simp only [evalExpr, State.readVar, h]
  rfl
theorem witness_write_then_read :
    (scripted (writeSteps (.const 0x10) (.const 0x1234) 0 ++ readSteps (.const 0x10) 1)).script.drop 0 =
      writeSteps (.const 0x10) (.const 0x1234) 0 ++ readSteps (.const 0x10) 1 ++ [] ∧
    evalExpr (scripted []) (.const 0x1234) = (0x1234 : DataWord).toNat := by decide

/-- The stored word has no bits above the codeword, and then bit 24 set, as program P3's address 0 has. -/
theorem witness_scrub :
    (stored (scrubSteps 1 (.const 0x10) 1 0)).script.drop 0 = scrubSteps (0 + 1) (.const 0x10) 1 0 ++ [] ∧
    Table.read (stored (scrubSteps 1 (.const 0x10) 1 0)).mem (evalExpr (stored []) (.const 0x10)) =
      some { cw := encodeData 0x1234, high := 0 } ∧
    Table.read { stored [] with mem := [(0x10, { cw := 0x191234, high := 0b100 })] }.mem 0x10 =
      some { cw := encodeData 0x1234, high := 0b100 } := by decide

/-- StepKeepsTheInvariant: a state with a driven port, a stored word and a script, in which a step answers a next
state. -/
theorem witness_inv : ({ stored [enc (.const 0x0080) 0] with enc := some { data := 0x1234, cw := 0x191234 } } : State).Inv ∧
    (nextOf (step { stored [enc (.const 0x0080) 0] with enc := some { data := 0x1234, cw := 0x191234 } })).isSome = true := by
  refine ⟨⟨?_, ?_, ?_, ?_, ?_, ?_, ?_, ?_, ?_, ?_⟩, by decide⟩
  · intro p h; cases h; decide
  · intro p h; cases h
  · intro n h; cases h
  · intro n h; cases h
  · intro n h; cases h
  · intro n h; cases h
  · exact List.pairwise_singleton _ _
  · intro a w h
    change (if a = 0x10 then some ({ cw := 0x191234, high := 0 } : RawWord) else none) = some w at h
    split at h
    · cases h; rfl
    · cases h
  · exact List.Pairwise.nil
  · intro _; exact Nat.zero_le _

end Sys2Proof.Tests
end

section
/-! The covering masks as sets of data bit indices (R25). -/

namespace Sys2Proof.Machine

/-- The mask of a set of data bit indices: bit `d` is 1 when `d` is in the set. -/
def dataSetMask : List Nat → DataWord
  | [] => 0
  | d :: ds => BitVec.twoPow 16 d ||| dataSetMask ds

theorem getLsbD_dataSetMask (ds : List Nat) {d : Nat} (h : d < 16) :
    (dataSetMask ds).getLsbD d = decide (d ∈ ds) := by
  induction ds with
  | nil => simp [dataSetMask]
  | cons e ds ih =>
    have bit_eq : (BitVec.twoPow 16 e).getLsbD d = decide (d = e) := by
      rw [BitVec.getLsbD_twoPow, Bool.eq_iff_iff]
      simp only [Bool.and_eq_true, decide_eq_true_eq]
      omega
    simp [dataSetMask, bit_eq, ih]

theorem cover_cb16 : COVER[4] = dataSetMask [11, 12, 13, 14, 15] := by decide

theorem cover_cb8 : COVER[3] = dataSetMask [4, 5, 6, 7, 8, 9, 10] := by decide

theorem cover_cb4 : COVER[2] = dataSetMask [1, 2, 3, 7, 8, 9, 10, 14, 15] := by decide

theorem cover_cb2 : COVER[1] = dataSetMask [0, 2, 3, 5, 6, 9, 10, 12, 13] := by decide

theorem cover_cb1 : COVER[0] = dataSetMask [0, 1, 3, 4, 6, 8, 10, 11, 13, 15] := by decide

/-- The mask of the document's literal cb1 set is the table's with index 7 added (spec/90_conflicts.md C1). -/
theorem literalCb1Mask_eq : (0xADDB : DataWord) = COVER[0] ||| dataSetMask [7] := by decide

/-- Settles O14: each mask is the mask of its covering set, whose bits are the set's members. -/
theorem coverTableMatchesCoveringSets : Obligations.CoverTableMatchesCoveringSets := by
  refine ⟨rfl, rfl, rfl, rfl, rfl, fun d hd => ⟨?cb16, ?cb8, ?cb4, ?cb2, ?cb1, ?literal⟩⟩
  case cb16 => rw [cover_cb16, getLsbD_dataSetMask _ hd]
  case cb8 => rw [cover_cb8, getLsbD_dataSetMask _ hd]
  case cb4 => rw [cover_cb4, getLsbD_dataSetMask _ hd]
  case cb2 => rw [cover_cb2, getLsbD_dataSetMask _ hd]
  case cb1 => rw [cover_cb1, getLsbD_dataSetMask _ hd]
  case literal => rw [literalCb1Mask_eq, BitVec.getLsbD_or, getLsbD_dataSetMask _ hd]; simp only [List.mem_singleton]

end Sys2Proof.Machine
end

section
/-! The formats bit by bit: the Encoder's assembly, the check-bit vector's packing, the Decoder's fields (R60, R61, R64,
R65). -/

namespace Sys2Proof.Machine

/-! ### The codeword's layout (R60) -/

/-- ENCODE's next state: only the Encoder's ports change. -/
theorem exec_encode (d : DataWord) (s : State) :
    exec (.encode d) s = .next { s with enc := some { data := d, cw := encodeData d } } := exec_eq (.encode d) s

theorem getLsbD_encodeData_data (d : DataWord) {i : Nat} (h : i < 16) : (encodeData d).getLsbD i = d.getLsbD i := by
  rw [getLsbD_encodeData, if_pos h]

theorem getLsbD_encodeData_checkBits (d : DataWord) {k : Nat} (h : k < 5) :
    (encodeData d).getLsbD (16 + k) = (checkBits d).getLsbD k := by
  rw [getLsbD_encodeData, if_neg (by omega), if_pos (by omega), Nat.add_sub_cancel_left]

theorem getLsbD_encodeData_cover (d : DataWord) {k : Nat} (h : k < 5) :
    (encodeData d).getLsbD (16 + k) = coverParity COVER[k] d :=
  (getLsbD_encodeData_checkBits d h).trans (getLsbD_checkBits d h)

/-- Below bit 21 the codeword is the word whose parity the Encoder takes. -/
theorem getLsbD_encodeData_eq_assemblePartial (d : DataWord) {i : Nat} (h : i < 21) :
    (encodeData d).getLsbD i = (assemblePartial (checkBits d) d).getLsbD i := by
  rw [getLsbD_encodeData, getLsbD_assemblePartial, if_pos h, if_pos h]

theorem getLsbD_encodeData_parity (d : DataWord) : (encodeData d).getLsbD 21 = parityBit (encodeData d) 21 := by
  rw [getLsbD_encodeData]
  exact (parityBit_congr fun _ hi => getLsbD_encodeData_eq_assemblePartial d hi).symm

/-- Settles O4: `exec` answers the port group of `encodeData`, whose bits are those of `getLsbD_encodeData`. -/
theorem codewordLayout : Obligations.CodewordLayout := fun d s =>
  ⟨{ data := d, cw := encodeData d }, exec_encode d s, rfl,
    fun _ hi => getLsbD_encodeData_data d hi, fun _ hk => getLsbD_encodeData_checkBits d hk,
    getLsbD_encodeData_cover d (k := 0) (by decide), getLsbD_encodeData_cover d (k := 1) (by decide),
    getLsbD_encodeData_cover d (k := 2) (by decide), getLsbD_encodeData_cover d (k := 3) (by decide),
    getLsbD_encodeData_cover d (k := 4) (by decide), getLsbD_encodeData_parity d⟩

/-! ### The Encoder's assembly (R64) -/

theorem assemblePartial_eq_append (cbv : CheckBits) (data : DataWord) :
    assemblePartial cbv data = (cbv ++ data : BitVec 21) := by
  apply BitVec.eq_of_getLsbD_eq
  intro i hi
  rw [getLsbD_assemblePartial, BitVec.getLsbD_append, if_pos hi]

theorem assembleCodeword_parity21Word_eq_append (part : BitVec 21) :
    assembleCodeword part (parity21Word part) = (BitVec.ofBool (parityBit part 21) ++ part : BitVec 22) := by
  apply BitVec.eq_of_getLsbD_eq
  intro i hi
  rw [getLsbD_assembleCodeword, getLsbD_parity21Word, BitVec.getLsbD_append, parity21]
  by_cases h : i < 21
  · simp [h, show i ≠ 21 by omega]
  · obtain rfl : i = 21 := by omega
    simp

/-- Settles O6: the parity word has bit 21 alone, so OR-ing it over the 21 bits below puts it beside them. -/
theorem assemblyIsConcatenation : Obligations.AssemblyIsConcatenation := by
  intro cbv data
  refine ⟨fun i hi => ?low, ?parity, assemblePartial_eq_append cbv data, ?codeword⟩
  case low => rw [getLsbD_parity21Word, decide_eq_false (by omega), Bool.false_and]
  case parity => rw [getLsbD_parity21Word, decide_eq_true rfl, Bool.true_and, parity21]
  case codeword => rw [assembleCodeword_parity21Word_eq_append, ← assemblePartial_eq_append]

/-! ### The Decoder's fields (R65) -/

theorem RawWord.getLsbD_ofNat_cw (n : Nat) {i : Nat} (h : i < 22) :
    (RawWord.ofNat n).cw.getLsbD i = n.testBit i := by
  rw [RawWord.ofNat, BitVec.getLsbD_ofNat, decide_eq_true h, Bool.true_and]

/-- Bits 22 and above of the number reach no bit of the codeword. -/
theorem RawWord.ofNat_cw_congr {m n : Nat} (h : m % 2 ^ 22 = n % 2 ^ 22) :
    (RawWord.ofNat m).cw = (RawWord.ofNat n).cw :=
  BitVec.eq_of_toNat_eq (by simpa only [RawWord.ofNat, BitVec.toNat_ofNat] using h)

theorem getLsbD_storedData_ofNat (n i : Nat) :
    (storedData (RawWord.ofNat n).cw).getLsbD i = (decide (i < 16) && n.testBit i) := by
  rw [getLsbD_storedData]
  by_cases h : i < 16
  · rw [RawWord.getLsbD_ofNat_cw n (by omega)]
  · simp only [h, decide_false, Bool.false_and]

theorem getLsbD_storedCheckBits_ofNat (n k : Nat) :
    (storedCheckBits (RawWord.ofNat n).cw).getLsbD k = (decide (k < 5) && n.testBit (16 + k)) := by
  rw [getLsbD_storedCheckBits]
  by_cases h : k < 5
  · rw [RawWord.getLsbD_ofNat_cw n (by omega)]
  · simp only [h, decide_false, Bool.false_and]

/-- Settles O7: every field is read off bits 21..0, which are the number's own. -/
theorem fieldExtraction : Obligations.FieldExtraction := fun raw =>
  ⟨getLsbD_storedData_ofNat raw, getLsbD_storedCheckBits_ofNat raw, RawWord.getLsbD_ofNat_cw raw (by decide),
    fun other h => by rw [RawWord.ofNat_cw_congr h]; exact ⟨rfl, rfl, rfl⟩⟩

/-! ### The check-bit vector's packing (R61) -/

/-- Each check bit's name is its weight. -/
theorem toNat_packCheckBits (cb16 cb8 cb4 cb2 cb1 : Bool) :
    (packCheckBits cb16 cb8 cb4 cb2 cb1).toNat =
      16 * cb16.toNat + 8 * cb8.toNat + 4 * cb4.toNat + 2 * cb2.toNat + cb1.toNat := by
  revert cb16 cb8 cb4 cb2 cb1
  decide

/-- Settles O5: the weighted sum, and each named bit by `getLsbD_packCheckBits`. -/
theorem checkBitPacking : Obligations.CheckBitPacking := fun cb16 cb8 cb4 cb2 cb1 =>
  ⟨toNat_packCheckBits cb16 cb8 cb4 cb2 cb1, getLsbD_packCheckBits cb16 cb8 cb4 cb2 cb1 0,
    getLsbD_packCheckBits cb16 cb8 cb4 cb2 cb1 1, getLsbD_packCheckBits cb16 cb8 cb4 cb2 cb1 2,
    getLsbD_packCheckBits cb16 cb8 cb4 cb2 cb1 3, getLsbD_packCheckBits cb16 cb8 cb4 cb2 cb1 4⟩

end Sys2Proof.Machine
end

section
/-! The Encoder's even parity over all 22 bits (R104). -/

namespace Sys2Proof.Machine

/-- `parityBit` is the left-to-right XOR of bits 0 to n-1, written as a fold. -/
theorem foldl_xor_range_eq_parityBit {w : Nat} (v : BitVec w) (n : Nat) :
    (List.range n).foldl (fun acc i => acc ^^ v.getLsbD i) false = parityBit v n := by
  induction n with
  | zero => rfl
  | succ n ih => rw [List.range_succ, List.foldl_append, ih, parityBit_succ, List.foldl_cons, List.foldl_nil]

/-- The parity bit cancels the parity of the 21 bits below it. -/
theorem parityBit_encodeData (d : DataWord) : parityBit (encodeData d) 22 = false := by
  rw [parityBit_succ, getLsbD_encodeData_parity, Bool.xor_self]

/-- Settles O10: bit 21 is the parity of the bits below it, so adding it to their XOR gives 0. -/
theorem encodedWordHasEvenParity : Obligations.EncodedWordHasEvenParity := fun d s =>
  ⟨{ data := d, cw := encodeData d }, exec_encode d s, rfl, getLsbD_encodeData_parity d,
    (foldl_xor_range_eq_parityBit (encodeData d) 22).trans (parityBit_encodeData d)⟩

end Sys2Proof.Machine
end

section
/-! The check bits as XORs over the covering sets, and the columns of the data bits (R111 to R113). -/

namespace Sys2Proof.Machine

/-! ### One check bit as an XOR of data bits (R111) -/

/-- The defining sum, written as a fold over all 16 data bits. -/
theorem coverParity_eq_foldl (mask data : DataWord) : coverParity mask data =
    (List.range 16).foldl (fun acc i => acc ^^ (data.getLsbD i && mask.getLsbD i)) false := by
  simp only [coverParity, ← foldl_xor_range_eq_parityBit, BitVec.getLsbD_and]

/-- Settles O12: bit `k` is the parity over covering set `k`, and that parity is the fold. -/
theorem checkbitsIsXorOverCoveringSets : Obligations.CheckbitsIsXorOverCoveringSets := by
  refine ⟨fun d k => ?formula, ?zeros, ?ones, ?example1234, ?setSizes⟩
  case formula => exact (getLsbD_checkBits d k.isLt).trans (coverParity_eq_foldl _ d)
  case zeros => decide
  case ones => decide
  case example1234 => decide
  case setSizes => decide

/-! ### One check bit over the members of its set (R112) -/

theorem coverParity_comm (mask data : DataWord) : coverParity mask data = coverParity data mask :=
  congrArg (parityBit · 16) (BitVec.and_comm data mask)

/-- One check bit is linear in the mask too. -/
theorem coverParity_xor_mask (a b data : DataWord) :
    coverParity (a ^^^ b) data = (coverParity a data ^^ coverParity b data) := by
  rw [coverParity_comm, coverParity_xor, coverParity_comm data a, coverParity_comm data b]

theorem parityBit_and_twoPow {w i : Nat} (v : BitVec w) (h : i < w) (n : Nat) :
    parityBit (v &&& BitVec.twoPow w i) n = (decide (i < n) && v.getLsbD i) := by
  induction n with
  | zero => rfl
  | succ n ih =>
    rw [parityBit_succ, ih, BitVec.getLsbD_and, BitVec.getLsbD_twoPow]
    rcases eq_or_ne i n with rfl | hne
    · simp [h]
    · simp [hne, le_iff_lt_or_eq]

theorem coverParity_zero_mask (data : DataWord) : coverParity 0 data = false :=
  congrArg (parityBit · 16) (BitVec.and_zero (x := data))

/-- A mask of one bit reads that data bit. -/
theorem coverParity_twoPow (data : DataWord) {i : Nat} (h : i < 16) :
    coverParity (BitVec.twoPow 16 i) data = data.getLsbD i := by
  rw [coverParity, parityBit_and_twoPow data h, decide_eq_true h, Bool.true_and]

/-- An index that is new in the set adds its bit to the mask, so the OR is an XOR. -/
theorem dataSetMask_cons_eq_xor {e : Nat} {ds : List Nat} (h : e ∉ ds) :
    dataSetMask (e :: ds) = BitVec.twoPow 16 e ^^^ dataSetMask ds := by
  apply BitVec.eq_of_getLsbD_eq
  intro i hi
  rw [dataSetMask, BitVec.getLsbD_or, BitVec.getLsbD_xor, BitVec.getLsbD_twoPow, getLsbD_dataSetMask ds hi]
  by_cases he : e = i
  · subst he; simp [h]
  · simp [he]

theorem coverParity_dataSetMask_cons (data : DataWord) {e : Nat} {ds : List Nat} (hlt : e < 16) (hmem : e ∉ ds) :
    coverParity (dataSetMask (e :: ds)) data = (data.getLsbD e ^^ coverParity (dataSetMask ds) data) := by
  rw [dataSetMask_cons_eq_xor hmem, coverParity_xor_mask, coverParity_twoPow data hlt]

theorem foldl_xor_eq_xor_coverParity (data : DataWord) {ds : List Nat} (hlt : ∀ d ∈ ds, d < 16)
    (hnodup : ds.Nodup) (b : Bool) :
    ds.foldl (fun acc d => acc ^^ data.getLsbD d) b = (b ^^ coverParity (dataSetMask ds) data) := by
  induction ds generalizing b with
  | nil => rw [dataSetMask, coverParity_zero_mask, Bool.xor_false, List.foldl_nil]
  | cons e ds ih =>
    obtain ⟨he, hlt⟩ := List.forall_mem_cons.1 hlt
    obtain ⟨hmem, hnodup⟩ := List.nodup_cons.1 hnodup
    rw [List.foldl_cons, ih hlt hnodup, coverParity_dataSetMask_cons data he hmem, Bool.xor_assoc]

/-- A check bit whose covering set is listed without repetition is the XOR of the listed data bits, left to right. -/
theorem getLsbD_checkBits_of_cover (data : DataWord) {k e : Nat} {ds : List Nat} (hk : k < 5)
    (hcover : COVER[k] = dataSetMask (e :: ds)) (hlt : ∀ d ∈ e :: ds, d < 16) (hnodup : (e :: ds).Nodup) :
    (checkBits data).getLsbD k = ds.foldl (fun acc d => acc ^^ data.getLsbD d) (data.getLsbD e) := by
  rw [getLsbD_checkBits data hk, hcover, ← Bool.false_xor (coverParity _ data),
    ← foldl_xor_eq_xor_coverParity data hlt hnodup, List.foldl_cons, Bool.false_xor]

/-- Settles O13: each mask is that of its covering set, whose members the equation lists. -/
theorem checkBitEquations : Obligations.CheckBitEquations := fun d =>
  ⟨getLsbD_checkBits_of_cover d (by decide) cover_cb1 (by decide) (by decide),
    getLsbD_checkBits_of_cover d (by decide) cover_cb2 (by decide) (by decide),
    getLsbD_checkBits_of_cover d (by decide) cover_cb4 (by decide) (by decide),
    getLsbD_checkBits_of_cover d (by decide) cover_cb8 (by decide) (by decide),
    getLsbD_checkBits_of_cover d (by decide) cover_cb16 (by decide) (by decide)⟩

/-! ### The columns of the data bits (R113) -/

theorem map_col_range : (List.range 16).map col = tableSyndromes := by decide

theorem mem_tableSyndromes_iff (s : Syndrome) : s ∈ tableSyndromes ↔ ∃ d, d < 16 ∧ col d = s := by
  rw [← map_col_range, List.mem_map]
  simp only [List.mem_range]

/-- `col(d)` reads column `d` of the covering masks. -/
theorem getLsbD_col (d : Nat) {k : Nat} (h : k < 5) : (col d).getLsbD k = COVER[k].getLsbD d := by
  have hk : k = 0 ∨ k = 1 ∨ k = 2 ∨ k = 3 ∨ k = 4 := by omega
  rcases hk with rfl | rfl | rfl | rfl | rfl <;> rw [col, getLsbD_packCheckBits] <;> rfl

theorem checkBits_xor (a b : DataWord) : checkBits (a ^^^ b) = checkBits a ^^^ checkBits b := by
  apply BitVec.eq_of_getLsbD_eq
  intro k hk
  rw [BitVec.getLsbD_xor, getLsbD_checkBits _ hk, getLsbD_checkBits _ hk, getLsbD_checkBits _ hk, coverParity_xor]

/-- CHECKBITS of one data bit is that bit's column. -/
theorem checkBits_twoPow {d : Nat} (h : d < 16) : checkBits (BitVec.twoPow 16 d) = col d := by
  apply BitVec.eq_of_getLsbD_eq
  intro k hk
  rw [getLsbD_checkBits _ hk, coverParity_comm, coverParity_twoPow _ h, getLsbD_col d hk]

theorem storedData_encodeData (d : DataWord) : storedData (encodeData d) = d := by
  apply BitVec.eq_of_getLsbD_eq
  intro i hi
  rw [getLsbD_storedData, decide_eq_true hi, Bool.true_and, getLsbD_encodeData_data d hi]

theorem storedCheckBits_encodeData (d : DataWord) : storedCheckBits (encodeData d) = checkBits d := by
  apply BitVec.eq_of_getLsbD_eq
  intro k hk
  rw [getLsbD_storedCheckBits, decide_eq_true hk, Bool.true_and, getLsbD_encodeData_checkBits d hk]

theorem wordSyndrome_encodeData (d : DataWord) : wordSyndrome (encodeData d) = 0 := by
  rw [wordSyndrome, storedData_encodeData, storedCheckBits_encodeData, syndromeOf]
  exact BitVec.xor_self

/-- The Decoder's syndrome is linear in the word. -/
theorem wordSyndrome_xor (a b : Codeword) : wordSyndrome (a ^^^ b) = wordSyndrome a ^^^ wordSyndrome b := by
  simp only [wordSyndrome, syndromeOf, storedData_xor, storedCheckBits_xor, checkBits_xor]
  ac_rfl

theorem getLsbD_flipBit {j : Nat} (h : j < 22) (i : Nat) : (flipBit j).getLsbD i = decide (j = i) := by
  rw [show flipBit j = BitVec.twoPow 22 j from rfl, BitVec.getLsbD_twoPow, decide_eq_true h, Bool.true_and]

theorem storedData_flipBit {d : Nat} (h : d < 16) : storedData (flipBit d) = BitVec.twoPow 16 d := by
  apply BitVec.eq_of_getLsbD_eq
  intro i hi
  rw [getLsbD_storedData, getLsbD_flipBit (by omega), BitVec.getLsbD_twoPow, decide_eq_true hi, decide_eq_true h]

theorem storedCheckBits_flipBit_data {d : Nat} (h : d < 16) : storedCheckBits (flipBit d) = 0 := by
  apply BitVec.eq_of_getLsbD_eq
  intro k _
  rw [getLsbD_storedCheckBits, getLsbD_flipBit (by omega), decide_eq_false (p := d = 16 + k) (by omega), Bool.and_false]
  exact BitVec.getLsbD_zero.symm

/-- A data bit alone leaves the stored check bits 0, and the recomputed ones are its column. -/
theorem wordSyndrome_flipBit_data {d : Nat} (h : d < 16) : wordSyndrome (flipBit d) = col d := by
  rw [wordSyndrome, storedData_flipBit h, storedCheckBits_flipBit_data h, checkBits_twoPow h, syndromeOf]
  exact BitVec.zero_xor

/-- Settles O15: the columns are the table's values, and the syndrome of a codeword with one data bit inverted is that
bit's column by linearity. -/
theorem columnCodeOfEachDataBit : Obligations.ColumnCodeOfEachDataBit := by
  refine ⟨map_col_range, fun d _ k => getLsbD_col d k.isLt, ?rising, fun d hd => ?notPower, fun s => ?hits,
    fun x d hd => ?singleFlip, ?literalClash⟩
  case rising => decide
  case notPower =>
    have no_power : ∀ s ∈ tableSyndromes, s ∉ ([0, 1, 2, 4, 8, 16] : List Syndrome) := by decide
    exact no_power _ ((mem_tableSyndromes_iff _).2 ⟨d, hd, rfl⟩)
  case hits => exact (synLookup_hit_iff s).trans (mem_tableSyndromes_iff s)
  case singleFlip =>
    rw [wordSyndrome_xor, wordSyndrome_encodeData, wordSyndrome_flipBit_data hd]
    exact BitVec.zero_xor
  case literalClash => rintro d (rfl | rfl) <;> decide

end Sys2Proof.Machine
end

section
/-! ENCODE's result as a concatenation, and how the literal cb1 set changes it (R121). -/

namespace Sys2Proof.Machine

/-- The codeword is its three fields side by side, the parity taken over the lower two. -/
theorem encodeData_eq_append (d : DataWord) : encodeData d =
    (BitVec.ofBool (parityBit (checkBits d ++ d : BitVec 21) 21) ++ (checkBits d ++ d) : BitVec 22) := by
  rw [encodeData, assembleCodeword_parity21Word_eq_append, assemblePartial_eq_append]

/-! ### The literal cb1 set (spec/90_conflicts.md C1) -/

/-- The literal set adds data bit 7 to the sum of cb1. -/
theorem coverParity_literalCb1Mask (d : DataWord) :
    coverParity 0xADDB d = (coverParity COVER[0] d ^^ d.getLsbD 7) := by
  have hmask : (0xADDB : DataWord) = COVER[0] ^^^ BitVec.twoPow 16 7 := by decide
  rw [hmask, coverParity_xor_mask, coverParity_twoPow d (by decide)]

/-- Bit 16 of the literal reading's codeword is its cb1. -/
theorem getLsbD_literalCb1Codeword_cb1 (d : DataWord) :
    (literalCb1Codeword d).getLsbD 16 = coverParity 0xADDB d := by
  rw [literalCb1Codeword, getLsbD_assembleCodeword, getLsbD_parity21Word, decide_eq_false (by decide), Bool.false_and,
    Bool.or_false, getLsbD_assemblePartial, if_neg (by decide), if_pos (by decide), getLsbD_packCheckBits, if_pos rfl]

/-- The two readings agree on a word exactly when they agree on its cb1. -/
theorem literalCb1Codeword_eq_encodeData_iff (d : DataWord) :
    literalCb1Codeword d = encodeData d ↔ coverParity 0xADDB d = coverParity COVER[0] d := by
  constructor
  · intro h
    rw [← getLsbD_literalCb1Codeword_cb1, h, getLsbD_encodeData_cover d (k := 0) (by decide)]
  · intro h
    rw [literalCb1Codeword, h, encodeData, checkBits]

/-- Settles O22: `exec` answers the port group of `encodeData`, which is the concatenation; the literal reading moves
cb1 by data bit 7, and no codeword keeps its value when its cb1 moves. -/
theorem encodeResult : Obligations.EncodeResult := by
  refine ⟨fun d s => ?completes, ?zeros, ?ones, ?low3, ?bits7and8, ?bit7, ?example1234, ?literalBits7and8, ?literalBit7,
    fun d => ?literalDiffers⟩
  case completes => rw [exec_encode, encodeData_eq_append]
  case zeros => decide
  case ones => decide
  case low3 => decide
  case bits7and8 => decide
  case bit7 => decide
  case example1234 => decide
  case literalBits7and8 => decide
  case literalBit7 => decide
  case literalDiffers =>
    rw [Ne, literalCb1Codeword_eq_encodeData_iff, coverParity_literalCb1Mask]
    cases coverParity COVER[0] d <;> cases d.getLsbD 7 <;> decide

end Sys2Proof.Machine
end

section
/-! The syndrome as an XOR of check-bit vectors, and the Decoder's port that carries it (R130). -/

namespace Sys2Proof.Machine

theorem getLsbD_syndromeOf (stored recomputed : CheckBits) (k : Nat) :
    (syndromeOf stored recomputed).getLsbD k = (stored.getLsbD k ^^ recomputed.getLsbD k) :=
  BitVec.getLsbD_xor

theorem syndromeOf_eq_zero_iff (stored recomputed : CheckBits) :
    syndromeOf stored recomputed = 0 ↔ stored = recomputed :=
  BitVec.xor_eq_zero_iff

theorem syndromeOf_comm (stored recomputed : CheckBits) : syndromeOf stored recomputed = syndromeOf recomputed stored :=
  BitVec.xor_comm stored recomputed

/-- DECODE's next state: the Decoder's ports change and one draw is used. -/
theorem exec_decode (raw : RawWord) (s : State) :
    exec (.decode raw) s =
      .next { s with dec := some (decodeRaw raw (Config.uncorrData s.draws)), draws := s.draws + 1 } :=
  exec_eq (.decode raw) s

theorem decodeRaw_syndrome (raw : RawWord) (x : DataWord) : (decodeRaw raw x).syndrome = wordSyndrome raw.cw := rfl

/-- Settles O18: the unit's function is an XOR, and DECODE's port carries the word's syndrome, whatever the draw. -/
theorem syndromeIsXor : Obligations.SyndromeIsXor := by
  refine ⟨fun stored recomputed => ⟨?bits, ?zeroIff, ?symmetric⟩, fun raw s => ⟨_, _, exec_decode raw s, ?port⟩,
    ?exampleValue⟩
  case bits => exact getLsbD_syndromeOf stored recomputed
  case zeroIff => exact syndromeOf_eq_zero_iff stored recomputed
  case symmetric => exact syndromeOf_comm stored recomputed
  case port => exact decodeRaw_syndrome raw _
  case exampleValue => decide

end Sys2Proof.Machine
end

section
/-! The Decoder: its parity error, its four outcomes and the data of each (R140 to R146). -/

namespace Sys2Proof.Machine

/-! ### The ports as functions of the word -/

theorem decodeRaw_parityErr (raw : RawWord) (x : DataWord) : (decodeRaw raw x).parityErr = parityErr raw.cw := rfl

theorem decodeRaw_status (raw : RawWord) (x : DataWord) : (decodeRaw raw x).status =
    classify (parityErr raw.cw) (synLookup (wordSyndrome raw.cw)).1 (wordSyndrome raw.cw) := rfl

theorem decodeRaw_ok (raw : RawWord) (x : DataWord) : (decodeRaw raw x).ok = (decodeRaw raw x).status.ok := rfl

theorem decodeRaw_data (raw : RawWord) (x : DataWord) : (decodeRaw raw x).data =
    decodedData (decodeRaw raw x).status (storedData raw.cw) (synLookup (decodeRaw raw x).syndrome).2 x := rfl

/-- The bits above the codeword reach the port `dec_raw` alone (R140). -/
theorem decodeRaw_high (cw : Codeword) (high high' : Nat) (x : DataWord) :
    decodeRaw { cw := cw, high := high' } x =
      { decodeRaw { cw := cw, high := high } x with raw := { cw := cw, high := high' } } := rfl

/-- Settles O27: the two runs take the same draw, and the other ports do not read the high bits. -/
theorem decodeNeverReadsHighBits : Obligations.DecodeNeverReadsHighBits := fun cw high high' s =>
  ⟨decodeRaw { cw := cw, high := high } (Config.uncorrData s.draws), s.draws + 1, exec_decode _ s, rfl, by
    rw [exec_decode, decodeRaw_high cw high high']⟩

/-! ### The parity error (R142) -/

theorem parityErr_eq_parityBit (cw : Codeword) : parityErr cw = parityBit cw 22 := by
  rw [parityErr, storedParity, parity21, parityBit_succ]
  exact Bool.xor_comm _ _

/-- Settles O28: comparing bit 21 with the parity below it adds it to their XOR. -/
theorem parityErrIsXorOfAll22Bits : Obligations.ParityErrIsXorOfAll22Bits := fun raw s =>
  ⟨_, _, exec_decode raw s, rfl,
    (parityErr_eq_parityBit raw.cw).trans (foldl_xor_range_eq_parityBit raw.cw 22).symm⟩

/-! ### The four outcomes (R143, R146) -/

/-- On a parity mismatch the table alone decides. -/
theorem classify_mismatch (hit : Bool) (syn : Syndrome) :
    classify true hit syn = if hit then .correctedData else .redundancyError := rfl

/-- When the parities match the syndrome being 0 alone decides. -/
theorem classify_match (hit : Bool) (syn : Syndrome) :
    classify false hit syn = if syn = 0 then .noError else .uncorrectable := rfl

theorem classify_correctedData (perr hit : Bool) (syn : Syndrome) :
    classify perr hit syn = .correctedData ↔ perr = true ∧ hit = true := by
  cases perr with
  | true => rw [classify_mismatch]; cases hit <;> simp
  | false => rw [classify_match]; split <;> simp

theorem classify_redundancyError (perr hit : Bool) (syn : Syndrome) :
    classify perr hit syn = .redundancyError ↔ perr = true ∧ ¬ hit = true := by
  cases perr with
  | true => rw [classify_mismatch]; cases hit <;> simp
  | false => rw [classify_match]; split <;> simp

theorem classify_noError (perr hit : Bool) (syn : Syndrome) :
    classify perr hit syn = .noError ↔ perr = false ∧ syn = 0 := by
  cases perr with
  | true => rw [classify_mismatch]; cases hit <;> simp
  | false => rw [classify_match, ite_eq_left_iff]; simp

section Outcomes

variable (raw : RawWord) (x : DataWord)

theorem decodeRaw_correctedData_iff : (decodeRaw raw x).status = .correctedData ↔
    (decodeRaw raw x).parityErr = true ∧ (decodeRaw raw x).syndrome ∈ tableSyndromes := by
  rw [decodeRaw_status, classify_correctedData, synLookup_hit_iff, decodeRaw_parityErr, decodeRaw_syndrome]

theorem decodeRaw_redundancyError_iff : (decodeRaw raw x).status = .redundancyError ↔
    (decodeRaw raw x).parityErr = true ∧ (decodeRaw raw x).syndrome ∉ tableSyndromes := by
  rw [decodeRaw_status, classify_redundancyError, synLookup_hit_iff, decodeRaw_parityErr, decodeRaw_syndrome]

theorem decodeRaw_uncorrectable_iff : (decodeRaw raw x).status = .uncorrectable ↔
    (decodeRaw raw x).parityErr = false ∧ (decodeRaw raw x).syndrome ≠ 0 := by
  rw [decodeRaw_status, classify_uncorrectable, decodeRaw_parityErr, decodeRaw_syndrome]

theorem decodeRaw_noError_iff : (decodeRaw raw x).status = .noError ↔
    (decodeRaw raw x).parityErr = false ∧ (decodeRaw raw x).syndrome = 0 := by
  rw [decodeRaw_status, classify_noError, decodeRaw_parityErr, decodeRaw_syndrome]

theorem decodeRaw_ok_eq_false_iff : (decodeRaw raw x).ok = false ↔ (decodeRaw raw x).status = .uncorrectable := by
  rw [decodeRaw_ok, ← Bool.not_eq_true, DecStatus.ok_iff, not_not]

end Outcomes

/-- Settles O29: each status has its condition; the parity and then one property of the syndrome choose one of four. -/
theorem classificationByParityThenSyndrome : Obligations.ClassificationByParityThenSyndrome := by
  refine ⟨fun raw s => ⟨_, _, exec_decode raw s, decodeRaw_correctedData_iff raw _, decodeRaw_redundancyError_iff raw _,
    decodeRaw_uncorrectable_iff raw _, decodeRaw_noError_iff raw _⟩, fun perr syn => ?exactlyOne⟩
  case exactlyOne =>
    cases perr with
    | true =>
      simp only [true_and, reduceCtorEq, false_and, decide_false, decide_not]
      cases decide (syn ∈ tableSyndromes) <;> rfl
    | false =>
      simp only [true_and, reduceCtorEq, false_and, decide_false, ne_eq, decide_not]
      cases decide (syn = 0) <;> rfl

/-- Settles O31: `dec_ok` is 0 for one status, whose condition is the one of R146. -/
theorem notOkExactlyWhenUncorrectable : Obligations.NotOkExactlyWhenUncorrectable := fun raw s =>
  ⟨_, _, exec_decode raw s, decodeRaw_ok_eq_false_iff raw _,
    (decodeRaw_ok_eq_false_iff raw _).trans (decodeRaw_uncorrectable_iff raw _)⟩

/-! ### The data of each outcome (R145) -/

theorem countOnes_twoPow {w i : Nat} (h : i < w) (n : Nat) :
    countOnes (BitVec.twoPow w i) n = if i < n then 1 else 0 := by
  induction n with
  | zero => rfl
  | succ n ih =>
    rw [countOnes_succ, ih, BitVec.getLsbD_twoPow]
    rcases lt_trichotomy i n with hlt | rfl | hgt
    · simp [hlt, hlt.ne, hlt.le]
    · simp [h]
    · simp [hgt.ne', hgt.not_gt, hgt.not_ge]

/-- One bit inside the width is one bit set. -/
theorem popcount_twoPow {w i : Nat} (h : i < w) : popcount (BitVec.twoPow w i) = 1 := by
  rw [popcount, countOnes_twoPow h, if_pos h]

theorem decodeRaw_data_of_correctedData {raw : RawWord} {x : DataWord}
    (h : (decodeRaw raw x).status = .correctedData) : (decodeRaw raw x).data =
      storedData raw.cw ^^^ BitVec.twoPow 16 (synLookup (decodeRaw raw x).syndrome).2.toNat := by
  rw [decodeRaw_data, h]
  rfl

theorem decodeRaw_data_of_redundancyError {raw : RawWord} {x : DataWord}
    (h : (decodeRaw raw x).status = .redundancyError) : (decodeRaw raw x).data = storedData raw.cw := by
  rw [decodeRaw_data, h]
  rfl

theorem decodeRaw_data_of_noError {raw : RawWord} {x : DataWord}
    (h : (decodeRaw raw x).status = .noError) : (decodeRaw raw x).data = storedData raw.cw := by
  rw [decodeRaw_data, h]
  rfl

/-- Settles O30: a corrected word differs from the stored data by a mask of the one bit the table names. -/
theorem decodedDataWhenOk : Obligations.DecodedDataWhenOk := fun raw s =>
  ⟨_, _, exec_decode raw s,
    fun h => by
      have data_eq := decodeRaw_data_of_correctedData h
      refine ⟨data_eq, ?_⟩
      rw [data_eq, BitVec.xor_comm, ← BitVec.xor_assoc, BitVec.xor_self, BitVec.zero_xor]
      exact popcount_twoPow (BitVec.isLt _),
    decodeRaw_data_of_redundancyError, decodeRaw_data_of_noError⟩

/-! ### DECODE's result (R141) -/

/-- The ports, outcome by outcome. -/
theorem decodeRaw_eq_ite (raw : RawWord) (x : DataWord) : decodeRaw raw x =
    if parityErr raw.cw = true then
      if (synLookup (wordSyndrome raw.cw)).1 = true then
        { raw := raw
          data := storedData raw.cw ^^^ ((1 : DataWord) <<< (synLookup (wordSyndrome raw.cw)).2.toNat), ok := true
          status := .correctedData, parityErr := true, syndrome := wordSyndrome raw.cw }
      else
        { raw := raw, data := storedData raw.cw, ok := true
          status := .redundancyError, parityErr := true, syndrome := wordSyndrome raw.cw }
    else if wordSyndrome raw.cw ≠ 0 then
      { raw := raw, data := x, ok := false
        status := .uncorrectable, parityErr := false, syndrome := wordSyndrome raw.cw }
    else
      { raw := raw, data := storedData raw.cw, ok := true
        status := .noError, parityErr := false, syndrome := wordSyndrome raw.cw } := by
  have ports := decodeRaw_eq raw.high x (cw := raw.cw) rfl rfl rfl
  cases hp : parityErr raw.cw <;> rw [hp] at ports
  case true =>
    cases hl : (synLookup (wordSyndrome raw.cw)).1 <;> rw [hl] at ports
    case true => exact ports
    case false => exact ports
  case false =>
    by_cases hs : wordSyndrome raw.cw = 0
    · rw [(classify_noError false _ _).2 ⟨rfl, hs⟩] at ports
      rw [if_neg Bool.false_ne_true, if_neg (not_not.2 hs)]
      exact ports
    · rw [(classify_uncorrectable false _ _).2 ⟨rfl, hs⟩] at ports
      rw [if_neg Bool.false_ne_true, if_pos hs]
      exact ports

/-- Every column is at most 21, so no larger syndrome is a table value. -/
theorem toNat_lt_of_mem_tableSyndromes : ∀ s ∈ tableSyndromes, s.toNat < 22 := by decide

/-- Settles O26: `exec` answers the ports of `decodeRaw`, which are R141's by outcome; the corner cases follow from each
word's parity error, syndrome and table entry. -/
theorem decodeResult : Obligations.DecodeResult := by
  refine ⟨fun raw s => ⟨Config.uncorrData s.draws, s.draws + 1, ?completes⟩,
    fun high x => ⟨?zeros, ?parityBitAlone, ?ones, ?corrected1234⟩, ?flipped1234, fun raw x hp hs => ?unlisted⟩
  case completes =>
    rw [exec_decode, decodeRaw_eq_ite]
    rfl
  case zeros => exact decodeRaw_eq (perr := false) (syn := 0) (look := (false, 0)) high x (by decide) (by decide) rfl
  case parityBitAlone =>
    exact decodeRaw_eq (perr := true) (syn := 0) (look := (false, 0)) high x (by decide) (by decide) rfl
  case ones => exact decodeRaw_eq (perr := false) (syn := 1) (look := (false, 0)) high x (by decide) (by decide) rfl
  case corrected1234 =>
    exact decodeRaw_eq (perr := true) (syn := 12) (look := (true, 7)) high x (by decide) (by decide) rfl
  case flipped1234 => decide
  case unlisted =>
    exact (decodeRaw_redundancyError_iff raw x).2 ⟨hp, fun hmem => (toNat_lt_of_mem_tableSyndromes _ hmem).not_ge hs⟩

end Sys2Proof.Machine
end

section
/-! Completion: every operation answers a next state, and a corrected outcome of DECODE is no failure (R162). -/

namespace Sys2Proof.Machine

theorem exec_completes (i : Instr) (s : State) : ∃ t, exec i s = .next t := ⟨execState i s, exec_eq i s⟩

/-- `dec_ok` is 1 on an outcome other than the uncorrectable one (R146). -/
theorem decodeRaw_ok_of_status {raw : RawWord} {x : DataWord} {st : DecStatus}
    (h : (decodeRaw raw x).status = st) (hst : st ≠ .uncorrectable) : (decodeRaw raw x).ok = true := by
  rw [decodeRaw_ok, h]
  exact (DecStatus.ok_iff st).2 hst

/-- Settles O42: `exec` answers a next state for each operation; DECODE's two corrected outcomes are not the
uncorrectable one, and their data is the stored word, with the bit of the table's 4-bit index inverted in the first. -/
theorem operationsNeverFail : Obligations.OperationsNeverFail := by
  refine ⟨fun w => exec_completes (.parity21 w), fun d => exec_completes (.checkbits d),
    fun d => exec_completes (.encode d), fun a b => exec_completes (.syndrome a b),
    fun syn => exec_completes (.synlookup syn),
    fun raw s => ⟨_, _, exec_decode raw s, rfl, fun h => ⟨?correctedOk, ?correctedData⟩,
      fun h => ⟨?redundancyOk, ?redundancyData⟩⟩⟩
  case correctedOk => exact decodeRaw_ok_of_status h (by decide)
  case correctedData => exact ⟨_, BitVec.isLt _, decodeRaw_data_of_correctedData h⟩
  case redundancyOk => exact decodeRaw_ok_of_status h (by decide)
  case redundancyData => exact decodeRaw_data_of_redundancyError h

end Sys2Proof.Machine
end

section
/-! The decoder and the encoder of drives: what an input carries, and the round trip (R28, R62, R67). -/

namespace Sys2Proof.Machine

theorem cutHigh_of_lt {n : Nat} (h : n < 2 ^ Config.rawHighW) : cutHigh n = n := Nat.mod_eq_of_lt h

/-- A number of `RAW_W` bits is the raw word of its low `RAW_W` bits. -/
theorem RawWord.ofNat_eq_cut {v : Nat} (h : v < 2 ^ Config.rawW) :
    ({ cw := BitVec.ofNat 22 v, high := cutHigh (v / 2 ^ 22) } : RawWord) = RawWord.ofNat v := by
  have hfits : v / 2 ^ 22 < 2 ^ Config.rawHighW := (RawWord.fits_iff _).1 ((RawWord.ofNat_fits_iff v).2 h)
  rw [cutHigh_of_lt hfits, RawWord.ofNat]

/-- A number the input carries is decoded to the operation on its bits. -/
theorem decode_of_carries {op : Op} {v : Nat} (h : PortCarries op v) :
    Sys2Proof.decode { op := op, value := v } = .ok (instrOfBits op v) := by
  cases op with
  | parity21 => rfl
  | checkbits | encode | syndrome | synlookup => exact if_pos h
  | decode => rw [instrOfBits, RawWord.ofNat_eq_cut h]; exact if_pos ((RawWord.ofNat_fits_iff v).2 h)

/-- Any other number is named too wide (log entry 14). -/
theorem decode_of_not_carries {op : Op} {v : Nat} (h : ¬ PortCarries op v) :
    Sys2Proof.decode { op := op, value := v } = .error (.tooWide op v) := by
  cases op with
  | parity21 => exact absurd trivial h
  | checkbits | encode | syndrome | synlookup => exact if_neg h
  | decode => exact if_neg (mt (RawWord.ofNat_fits_iff v).1 h)

/-- What the decoder accepts is the operation on the number's bits. -/
theorem eq_instrOfBits_of_decode {op : Op} {v : Nat} {i : Instr}
    (h : Sys2Proof.decode { op := op, value := v } = .ok i) : i = instrOfBits op v := by
  by_cases hc : PortCarries op v
  · exact (Except.ok.inj ((decode_of_carries hc).symm.trans h)).symm
  · rw [decode_of_not_carries hc] at h
    cases h

/-- No bit of a carried number is dropped, but for those PARITY21 does not read (R102). -/
theorem encode_instrOfBits {op : Op} {v : Nat} (h : PortCarries op v) :
    Sys2Proof.encode (instrOfBits op v) = { op := op, value := if op = .parity21 then v % 2 ^ 21 else v } := by
  cases op with
  | parity21 => rfl
  | checkbits | encode | synlookup => exact congrArg (Drive.mk _) (Nat.mod_eq_of_lt h)
  | syndrome =>
    refine congrArg (Drive.mk _) ?_
    change v < 2 ^ 10 at h
    change v / 2 ^ 5 % 2 ^ 5 * 2 ^ 5 + v % 2 ^ 5 = v
    omega
  | decode =>
    rw [instrOfBits, RawWord.ofNat_eq_cut h]
    exact congrArg (Drive.mk _) (RawWord.toNat_ofNat v)

/-- What the encoder writes for a well-formed operation is carried by the operation's input. -/
theorem encode_carries {i : Instr} (h : i.wellFormed = true) :
    PortCarries (Sys2Proof.encode i).op (Sys2Proof.encode i).value := by
  cases i with
  | parity21 w => exact Laws.EncodeFits.parity21 w h
  | checkbits d => exact Laws.EncodeFits.checkbits d h
  | encode d => exact Laws.EncodeFits.encode d h
  | syndrome a b => exact Laws.EncodeFits.syndrome a b h
  | synlookup s => exact Laws.EncodeFits.synlookup s h
  | decode raw => exact Laws.EncodeFits.decode raw h

/-- The bits the encoder writes are those of the operands. -/
theorem instrOfBits_encode {i : Instr} (h : i.wellFormed = true) :
    instrOfBits (Sys2Proof.encode i).op (Sys2Proof.encode i).value = i := by
  cases i with
  | parity21 w => exact congrArg Instr.parity21 (BitVec.eq_of_toNat_eq (Nat.mod_eq_of_lt w.isLt))
  | checkbits d => exact congrArg Instr.checkbits (BitVec.eq_of_toNat_eq (Nat.mod_eq_of_lt d.isLt))
  | encode d => exact congrArg Instr.encode (BitVec.eq_of_toNat_eq (Nat.mod_eq_of_lt d.isLt))
  | syndrome a b =>
    have ha := a.isLt
    have hb := b.isLt
    refine congrArg₂ Instr.syndrome (BitVec.eq_of_toNat_eq ?_) (BitVec.eq_of_toNat_eq ?_)
    · change (a.toNat * 2 ^ 5 + b.toNat) / 2 ^ 5 % 2 ^ 5 = a.toNat
      omega
    · change (a.toNat * 2 ^ 5 + b.toNat) % 2 ^ 5 = b.toNat
      omega
  | synlookup s => exact congrArg Instr.synlookup (BitVec.eq_of_toNat_eq (Nat.mod_eq_of_lt s.isLt))
  | decode raw =>
    exact congrArg Instr.decode ((RawWord.ofNat_eq_cut (encode_carries h)).trans (RawWord.ofNat_toNat raw))

theorem decode_encode {i : Instr} (h : i.wellFormed = true) : Sys2Proof.decode (Sys2Proof.encode i) = .ok i :=
  (decode_of_carries (encode_carries h)).trans (congrArg Except.ok (instrOfBits_encode h))

/-- Settles O2: the encoder writes a number its input carries, and the decoder reads the operands off its bits. -/
theorem decodeOfEncodeIsTheOperation : Obligations.DecodeOfEncodeIsTheOperation := fun _ h => decode_encode h

/-- Settles O3: a carried number is the operation on its bits, whose encoding is the number; any other is refused. -/
theorem decodeAcceptsExactlyWhatTheInputCarries : Obligations.DecodeAcceptsExactlyWhatTheInputCarries := fun op v =>
  ⟨fun h => ⟨instrOfBits op v, decode_of_carries h, instrOfBits_wellFormed op v, encode_instrOfBits h⟩,
    decode_of_not_carries⟩

/-- Settles O1: each word is carried by its input, whose bits are the pattern's operands; the last number
has 17 bits. -/
theorem drivenWordsSelectTheirOperation : Obligations.DrivenWordsSelectTheirOperation := by
  refine ⟨?parity21, ?checkbits, ?encode, ?syndrome, ?synlookup, ?decode, ?tooWide⟩
  case parity21 => exact decode_of_carries trivial
  case checkbits => exact decode_of_carries (op := .checkbits) (by decide : 0b0001001000110100 < 2 ^ 16)
  case encode => exact decode_of_carries (op := .encode) (by decide : 0b1010101111001101 < 2 ^ 16)
  case syndrome => exact decode_of_carries (op := .syndrome) (by decide : 0b1100111110 < 2 ^ 10)
  case synlookup => exact decode_of_carries (op := .synlookup) (by decide : 0b01100 < 2 ^ 5)
  case decode => rfl
  case tooWide => exact decode_of_not_carries (op := .encode) (by decide : ¬ 0x10000 < 2 ^ 16)

end Sys2Proof.Machine
end

section
/-! The invariant: each update of one part of the state keeps it, so each host step does (R28, R31, R180). -/

namespace Sys2Proof.Machine

/-! ### The ports are functions of their inputs -/

/-- The data of an outcome is its own draw: only the uncorrectable outcome reads one, and returns it. -/
theorem decodedData_self_draw (st : DecStatus) (d : DataWord) (k : BitVec 4) (x : DataWord) :
    decodedData st d k (decodedData st d k x) = decodedData st d k x := by cases st <;> rfl

theorem decodeRaw_consistent {raw : RawWord} (h : raw.fits = true) (x : DataWord) : (decodeRaw raw x).consistent :=
  ⟨congrArg (fun d => { decodeRaw raw x with data := d }) (decodedData_self_draw _ _ _ x).symm, h⟩

/-- Whatever number is driven, the operation that runs is on a word of the input. -/
theorem drivenInstr_wellFormed (op : Op) (v n : Nat) : (drivenInstr op v n).wellFormed = true := by
  by_cases h : PortCarries op v
  · rw [drivenInstr_of_ok n (decode_of_carries h)]
    exact instrOfBits_wellFormed op v
  · rw [drivenInstr_of_error n (decode_of_not_carries h)]
    exact instrOfBits_wellFormed op _

theorem hpc_lt_of_fetch {s : State} {h : HostStep} (hf : fetch s = some h) : s.hpc < s.script.length :=
  (List.getElem?_eq_some_iff.1 hf).1

/-- Where a GOTO of a well-formed script continues is in the script (R72). -/
theorem goto_le_of_scriptWellFormed {s : State} {c : HExpr} {n : Nat} (hf : fetch s = some (.ifGoto c n))
    (hwf : scriptWellFormed s.script = true) : n - 1 ≤ s.script.length := by
  have hstep := List.all_eq_true.1 hwf _ (List.mem_of_getElem? hf)
  simp only [HostStep.wellFormed, Bool.and_eq_true, decide_eq_true_eq] at hstep
  omega

/-- FLIP changes nothing but memory. -/
theorem flipRaw_eq_setMem (a : Addr) (m : Nat) (s : State) : flipRaw a m s = s.setMem (flipRaw a m s).mem := by
  rcases flipRaw_cases a m s with ⟨-, heq⟩ | ⟨w, -, heq⟩ <;> rw [heq] <;> rfl

@[simp] theorem flipRaw_script (a : Addr) (m : Nat) (s : State) : (flipRaw a m s).script = s.script := by
  rw [flipRaw_eq_setMem, State.setMem_script]

@[simp] theorem flipRaw_hpc (a : Addr) (m : Nat) (s : State) : (flipRaw a m s).hpc = s.hpc := by
  rw [flipRaw_eq_setMem, State.setMem_hpc]

/-! ### Each update keeps the invariant -/

namespace State.Inv

variable {s : State}

theorem useDraw (hs : s.Inv) : s.useDraw.Inv := { hs with }

theorem goto (hs : s.Inv) {n : Nat} (hn : scriptWellFormed s.script = true → n ≤ s.script.length) : (s.goto n).Inv :=
  { hs with in_script := hn }

/-- A step was fetched, so the next index is at most the script's length. -/
theorem advance (hs : s.Inv) (h : s.hpc < s.script.length) : s.advance.Inv := (hs.goto fun _ => h).useDraw

theorem setVar (hs : s.Inv) (h : HostVar) (n : Nat) : (s.setVar h n).Inv :=
  { hs with vars_wf := Table.write_wf hs.vars_wf h n }

/-- A word of `RAW_W` bits is written to memory. -/
theorem writeMem (hs : s.Inv) (a : Addr) {w : RawWord} (hw : w.fits = true) :
    (s.setMem (Table.write s.mem a w)).Inv :=
  { hs with
    mem_wf := Table.write_wf hs.mem_wf a w
    mem_fits := by
      intro b w' hr
      rw [State.setMem_mem, Table.read_write] at hr
      split at hr
      · exact Option.some.inj hr ▸ hw
      · exact hs.mem_fits b w' hr }

theorem storeRaw (hs : s.Inv) (a : Addr) (v : Nat) : (storeRaw a v s).Inv := hs.writeMem a (zextRaw_fits _)

theorem loadRaw (hs : s.Inv) (a : Addr) (h : HostVar) : (loadRaw a h s).Inv := (hs.setVar h _).useDraw

theorem flipRaw (hs : s.Inv) (a : Addr) (m : Nat) : (flipRaw a m s).Inv := by
  rcases flipRaw_cases a m s with ⟨-, heq⟩ | ⟨w, -, heq⟩
  · rw [heq]; exact hs
  · rw [heq]; exact hs.writeMem a (xorRaw_fits _ _)

/-- An operation drives one group, with the functions of its input. -/
theorem execState (hs : s.Inv) {i : Instr} (hi : i.wellFormed = true) : (execState i s).Inv := by
  cases i with
  | parity21 w => exact { hs with parity_consistent := fun _ h => Option.some.inj h ▸ ⟨rfl, rfl⟩ }
  | checkbits d => exact { hs with checkBit_consistent := fun _ h => Option.some.inj h ▸ rfl }
  | encode d => exact { hs with enc_consistent := fun _ h => Option.some.inj h ▸ rfl }
  | syndrome a b => exact { hs with syndrome_consistent := fun _ h => Option.some.inj h ▸ rfl }
  | synlookup syn => exact { hs with lookup_consistent := fun _ h => Option.some.inj h ▸ rfl }
  | decode raw => exact { hs with dec_consistent := fun _ h => Option.some.inj h ▸ decodeRaw_consistent hi _ }

theorem finishDrive (hs : s.Inv) (h : s.hpc < s.script.length) (op : Op) (dst : Option HostVar) :
    (finishDrive op dst s).Inv := by
  cases dst with
  | none => exact hs.advance h
  | some v => exact (hs.setVar v _).advance h

theorem driveState (hs : s.Inv) (h : s.hpc < s.script.length) {i : Instr} (hi : i.wellFormed = true) (op : Op)
    (dst : Option HostVar) : (driveState i op dst s).Inv :=
  (hs.execState hi).finishDrive (by rw [execState_hpc, execState_script]; exact h) op dst

theorem runIfGoto (hs : s.Inv) {c : HExpr} {n : Nat} (hf : fetch s = some (.ifGoto c n)) : (runIfGoto c n s).Inv := by
  unfold Machine.runIfGoto
  split
  · exact hs.advance (hpc_lt_of_fetch hf)
  · exact (hs.goto (goto_le_of_scriptWellFormed hf)).useDraw

end State.Inv

/-! ### Steps and reset -/

/-- Settles O57: each kind of host step is made of updates that keep the invariant. -/
theorem stepKeepsTheInvariant : Obligations.StepKeepsTheInvariant := by
  intro s t hs hstep
  rcases step_next_cases hstep with ⟨rfl, -⟩ | ⟨op, e, dst, hf, rfl⟩ | ⟨a, v, hf, rfl⟩ | ⟨a, h, hf, rfl⟩ |
    ⟨a, m, hf, rfl⟩ | ⟨c, n, hf, rfl⟩ | ⟨h, e, hf, rfl⟩
  · exact hs
  · exact hs.driveState (hpc_lt_of_fetch hf) (drivenInstr_wellFormed _ _ _) op dst
  · exact (hs.storeRaw _ _).advance (hpc_lt_of_fetch hf)
  · exact (hs.loadRaw _ h).advance (hpc_lt_of_fetch hf)
  · exact (hs.flipRaw _ _).advance (by rw [flipRaw_hpc, flipRaw_script]; exact hpc_lt_of_fetch hf)
  · exact hs.runIfGoto hf
  · exact (hs.setVar h _).advance (hpc_lt_of_fetch hf)

/-- Settles O58: nothing is driven, stored or set at reset, and the empty script's end is its start. -/
theorem resetMeetsTheInvariant : Obligations.ResetMeetsTheInvariant where
  enc_consistent _ h := nomatch h
  dec_consistent _ h := nomatch h
  parity_consistent _ h := nomatch h
  checkBit_consistent _ h := nomatch h
  syndrome_consistent _ h := nomatch h
  lookup_consistent _ h := nomatch h
  mem_wf := reset_mem_wf
  mem_fits _ _ h := nomatch h
  vars_wf := List.Pairwise.nil
  in_script _ := le_rfl

/-- Settles O59: every output is one of an undriven group, and the empty script has no step. -/
theorem resetHasNothingDriven : Obligations.ResetHasNothingDriven :=
  ⟨State.reset_enc, State.reset_dec, fun p => by cases p <;> rfl, fun _ => rfl, fun _ => rfl, step_of_end rfl⟩

/-- Every host step has a meaning. -/
theorem runHostStep_completes (h : HostStep) (s : State) : ∃ t, runHostStep h s = .next t := by
  cases h with
  | drive op e dst => exact ⟨_, runDrive_eq op e dst s⟩
  | store | load | flip | ifGoto | assign | halt => exact ⟨_, rfl⟩

/-- Settles O60: past the script's end nothing changes, and every step of the script has a meaning. -/
theorem everyStepAnswersANextState : Obligations.EveryStepAnswersANextState := by
  intro s
  cases hf : fetch s with
  | none => exact ⟨s, step_of_end hf⟩
  | some h => exact step_of_fetch hf ▸ runHostStep_completes h s

end Sys2Proof.Machine
end

section
/-! The Parity Unit (R101, R102, R105). -/

namespace Sys2Proof.Machine

/-- The parity word is bit 21 or nothing (R102). -/
theorem parity21Word_eq_ite {w : Nat} (v : BitVec w) : parity21Word v = if parity21 v then 0x200000 else 0 := by
  apply BitVec.eq_of_getLsbD_eq
  intro i _
  rw [getLsbD_parity21Word]
  cases parity21 v with
  | false => rw [Bool.and_false]; exact BitVec.getLsbD_zero.symm
  | true =>
    rw [Bool.and_true, if_pos rfl, show (0x200000 : Codeword) = flipBit 21 from rfl, getLsbD_flipBit (by decide)]
    exact decide_eq_decide.2 eq_comm

/-- PARITY21 changes its own nets only. -/
theorem exec_parity21 (w : BitVec 21) (s : State) : exec (.parity21 w) s =
    .next { s with parityUnit := some { w := w, p := parity21 w, pword := parity21Word w } } :=
  exec_eq (.parity21 w) s

/-- Settles O8: `p` is the defining sum, `pword` has it at bit 21, and the driven word is cut to bits 0 to 20. -/
theorem parity21IsXorOf21Bits : Obligations.Parity21IsXorOf21Bits := by
  refine ⟨fun w s => ⟨_, exec_parity21 w s, rfl, ?sum, parity21Word_eq_ite w⟩,
    fun v => ⟨BitVec.ofNat 21 v, rfl, fun i hi => ?lowBits⟩⟩
  case sum =>
    change parityBit w 21 = _
    simp only [parityBit_succ, parityBit_zero, Bool.false_xor]
  case lowBits => rw [BitVec.getLsbD_ofNat, decide_eq_true hi, Bool.true_and]

theorem computeParity_congr {w : Nat} {a b : BitVec w} {n : Nat} (h : ∀ i, i < n → a.getLsbD i = b.getLsbD i) :
    computeParity a n = computeParity b n := by
  rw [computeParity, parityBit_congr h, computeParity]

/-- Settles O9: the one bit `computeParity` sets is the parity, which says whether the count is odd. -/
theorem computeParityIsPositioned : Obligations.ComputeParityIsPositioned := fun w word n =>
  ⟨fun i => by rw [getLsbD_computeParity, parityBit_eq_odd], by simp [computeParity], fun _ h => computeParity_congr h⟩

/-- Settles O11: parity is linear, and a mask's parity says whether the count of its ones is odd. -/
theorem parityFlipLaw : Obligations.ParityFlipLaw := by
  intro w m hm
  have count : popcount m = countOnes m 21 := by rw [popcount, countOnes_succ, hm]; rfl
  rw [parity21, parityBit_xor, parityBit_eq_odd m, count, parity21]

end Sys2Proof.Machine
end

section
/-! Linear functions of a word as XOR sums over its set bits, and the columns of the code (R114, R115, R124, R126). -/

namespace Sys2Proof.Machine

/-! ### XOR sums over the set bits -/

variable {w n : Nat}

/-- `XOR_{i in 0..k-1, v[i] = 1} f(i)`: what `xorCol` and `xorHcol` are, for any function of the bit. -/
def xorSum (f : Nat → BitVec n) (v : BitVec w) : Nat → BitVec n
  | 0 => 0
  | k + 1 => xorSum f v k ^^^ (if v.getLsbD k then f k else 0)

theorem xorSum_succ (f : Nat → BitVec n) (v : BitVec w) (k : Nat) :
    xorSum f v (k + 1) = xorSum f v k ^^^ (if v.getLsbD k then f k else 0) := rfl

theorem xorCol_eq_xorSum (data : DataWord) (k : Nat) : xorCol data k = xorSum col data k := by
  induction k with
  | zero => rfl
  | succ k ih => rw [xorCol, xorSum_succ, ih]

theorem xorHcol_eq_xorSum (m : Codeword) (k : Nat) : xorHcol m k = xorSum hcol m k := by
  induction k with
  | zero => rfl
  | succ k ih => rw [xorHcol, xorSum_succ, ih]

theorem foldl_xor_range_eq_xorSum (f : Nat → BitVec n) (v : BitVec w) (k : Nat) :
    (List.range k).foldl (fun acc i => acc ^^^ (if v.getLsbD i then f i else 0)) 0 = xorSum f v k := by
  induction k with
  | zero => rfl
  | succ k ih => rw [List.range_succ, List.foldl_append, ih, List.foldl_cons, List.foldl_nil, xorSum_succ]

/-- The sum over bits 0 to k-1 reads no other term. -/
theorem xorSum_congr {f g : Nat → BitVec n} (v : BitVec w) {k : Nat} (h : ∀ i, i < k → f i = g i) :
    xorSum f v k = xorSum g v k := by
  induction k with
  | zero => rfl
  | succ k ih => rw [xorSum_succ, xorSum_succ, ih fun i hi => h i (by omega), h k (by omega)]

/-- A set bit's own term has that bit alone. -/
theorem getLsbD_ite_twoPow (v : BitVec w) (k i : Nat) :
    (if v.getLsbD k then BitVec.twoPow w k else 0).getLsbD i = (decide (i = k) && v.getLsbD i) := by
  cases hv : v.getLsbD k with
  | false =>
    rw [if_neg Bool.false_ne_true]
    rcases eq_or_ne i k with rfl | hne
    · simp [hv]
    · simp [hne]
  | true =>
    rw [if_pos rfl, BitVec.getLsbD_twoPow, decide_eq_true (BitVec.lt_of_getLsbD hv)]
    rcases eq_or_ne i k with rfl | hne
    · simp [hv]
    · simp [hne, hne.symm]

/-- A word is the XOR of its set bits. -/
theorem xorSum_twoPow (v : BitVec w) : xorSum (BitVec.twoPow w) v w = v := by
  have low_bits : ∀ k i, (xorSum (BitVec.twoPow w) v k).getLsbD i = (decide (i < k) && v.getLsbD i) := by
    intro k i
    induction k with
    | zero => simp [xorSum]
    | succ k ih =>
      rw [xorSum_succ, BitVec.getLsbD_xor, ih, getLsbD_ite_twoPow]
      rcases lt_trichotomy i k with hlt | rfl | hgt
      · simp [hlt, hlt.ne, show i < k + 1 by omega]
      · simp
      · simp [hgt.ne', show ¬ i < k by omega, show ¬ i < k + 1 by omega]
  apply BitVec.eq_of_getLsbD_eq
  intro i hi
  rw [low_bits, decide_eq_true hi, Bool.true_and]

/-- A linear function of a word is the XOR of its values on the set bits. -/
theorem eq_xorSum_of_linear {g : BitVec w → BitVec n} (hg : ∀ a b, g (a ^^^ b) = g a ^^^ g b) (v : BitVec w) :
    g v = xorSum (fun i => g (BitVec.twoPow w i)) v w := by
  have map_zero : g 0 = 0 := by
    have h := hg 0 0
    rwa [BitVec.xor_self, BitVec.xor_self] at h
  have map_sum : ∀ k, g (xorSum (BitVec.twoPow w) v k) = xorSum (fun i => g (BitVec.twoPow w i)) v k := by
    intro k
    induction k with
    | zero => exact map_zero
    | succ k ih => rw [xorSum_succ, hg, ih, apply_ite g, map_zero, xorSum_succ]
  rw [← map_sum, xorSum_twoPow]

/-! ### The Check-bit Unit and the columns -/

/-- Settles O16: CHECKBITS is linear, and its value on one bit is that bit's column. -/
theorem checkBitsAreLinear : Obligations.CheckBitsAreLinear :=
  ⟨checkBits_xor, fun _ hd => checkBits_twoPow hd, fun data => by
    rw [xorCol_eq_xorSum, eq_xorSum_of_linear checkBits_xor data]
    exact xorSum_congr data fun _ hi => checkBits_twoPow hi⟩

/-- One inverted bit's syndrome is its column. -/
theorem wordSyndrome_flipBit {j : Nat} (h : j < 22) : wordSyndrome (flipBit j) = hcol j := by
  revert j
  decide

/-- The syndrome of a word is the XOR of the columns of its set bits; the parity bit's column is 0. -/
theorem wordSyndrome_eq_xorHcol (c : Codeword) : wordSyndrome c = xorHcol c 21 := by
  have sum22 : wordSyndrome c = xorSum hcol c 22 := by
    rw [eq_xorSum_of_linear wordSyndrome_xor c]
    exact xorSum_congr c fun _ hi => wordSyndrome_flipBit hi
  have last_zero : (if c.getLsbD 21 then hcol 21 else 0) = 0 := ite_self 0
  rw [sum22, xorSum_succ, last_zero, xorHcol_eq_xorSum]
  exact BitVec.xor_zero

/-- The columns of the 22 codeword bits are distinct, the parity bit's among them. -/
theorem hcol_ne_of_lt : ∀ j, j < 22 → ∀ i, i < j → hcol i ≠ hcol j := by decide

theorem hcol_ne_zero : ∀ j, j < 21 → hcol j ≠ 0 := hcol_ne_of_lt 21 (by decide)

/-- Settles O17: the fields match when the syndrome is 0, and the syndrome is the XOR of the columns. -/
theorem parityCheckColumns : Obligations.ParityCheckColumns :=
  ⟨fun c => by rw [← wordSyndrome_eq_xorHcol, wordSyndrome, syndromeOf_eq_zero_iff],
    fun j hj => hcol_ne_of_lt j (by omega), hcol_ne_zero, rfl⟩

end Sys2Proof.Machine
end

section
/-! The Encoder: its invariants, linearity and generator rows (R124, R126). -/

namespace Sys2Proof.Machine

/-- Data, check bits and overall parity determine a 22-bit word. -/
theorem codeword_ext {a b : Codeword} (hdata : storedData a = storedData b)
    (hcheck : storedCheckBits a = storedCheckBits b) (hparity : parityBit a 22 = parityBit b 22) : a = b := by
  have data_bits : ∀ i, i < 16 → a.getLsbD i = b.getLsbD i := fun i hi => by
    simpa only [getLsbD_storedData, hi, decide_true, Bool.true_and] using congrArg (BitVec.getLsbD · i) hdata
  have check_bits : ∀ k, k < 5 → a.getLsbD (16 + k) = b.getLsbD (16 + k) := fun k hk => by
    simpa only [getLsbD_storedCheckBits, hk, decide_true, Bool.true_and] using congrArg (BitVec.getLsbD · k) hcheck
  have low_bits : ∀ i, i < 21 → a.getLsbD i = b.getLsbD i := by
    intro i hi
    by_cases h : i < 16
    · exact data_bits i h
    · have h16 := check_bits (i - 16) (by omega)
      rwa [show 16 + (i - 16) = i by omega] at h16
  have parity_bit : a.getLsbD 21 = b.getLsbD 21 := by
    rw [parityBit_succ a 21, parityBit_succ b 21, parityBit_congr low_bits] at hparity
    exact Bool.xor_right_inj.1 hparity
  apply BitVec.eq_of_getLsbD_eq
  intro i hi
  by_cases h : i < 21
  · exact low_bits i h
  · rwa [show i = 21 by omega]

/-- The Encoder is linear: the XOR of two codewords has the data, the check bits and the even parity of a codeword. -/
theorem encodeData_xor (a b : DataWord) : encodeData (a ^^^ b) = encodeData a ^^^ encodeData b := by
  apply codeword_ext
  · simp only [storedData_xor, storedData_encodeData]
  · simp only [storedCheckBits_xor, storedCheckBits_encodeData, checkBits_xor]
  · simp only [parityBit_xor, parityBit_encodeData, Bool.xor_false]

/-- Settles O23: the fields and the parity by their own lemmas, linearity because they determine the word. -/
theorem encoderInvariantsAndLinearity : Obligations.EncoderInvariantsAndLinearity :=
  ⟨fun d => ⟨storedData_encodeData d, storedCheckBits_encodeData d, parityBit_encodeData d⟩, encodeData_xor⟩

/-- The codewords of the single data bits (R126). -/
def encoderRows : List Codeword :=
  [0x230001, 0x250002, 0x260004, 0x070008, 0x290010, 0x2A0020, 0x0B0040, 0x2C0080,
    0x0D0100, 0x0E0200, 0x2F0400, 0x310800, 0x321000, 0x132000, 0x344000, 0x158000]

theorem map_encodeData_range : (List.range 16).map (fun i => encodeData ((1 : DataWord) <<< i)) = encoderRows := by
  decide

theorem encoderRows_getD {i : Nat} (h : i < 16) : encoderRows.getD i 0 = encodeData (BitVec.twoPow 16 i) := by
  rw [← map_encodeData_range]
  simp [List.getD_eq_getElem?_getD, h, BitVec.twoPow_eq]

/-- Settles O25: the Encoder is linear, and the rows are its values on the data bits. -/
theorem generatorRows : Obligations.GeneratorRows := by
  refine ⟨map_encodeData_range, fun d => ?_⟩
  have sum_of_rows : encodeData d = xorSum (fun i => encoderRows.getD i 0) d 16 := by
    rw [eq_xorSum_of_linear encodeData_xor d]
    exact xorSum_congr d fun _ hi => (encoderRows_getD hi).symm
  exact sum_of_rows.trans (foldl_xor_range_eq_xorSum _ d 16).symm

end Sys2Proof.Machine
end

section
/-! Masks of few ones, and the distance between codewords (R125). -/

namespace Sys2Proof.Machine

variable {w : Nat}

/-- Clearing a set bit takes one off the count of the bits above it. -/
theorem countOnes_xor_twoPow {v : BitVec w} {i : Nat} (h : v.getLsbD i = true) (n : Nat) :
    countOnes (v ^^^ BitVec.twoPow w i) n + (if i < n then 1 else 0) = countOnes v n := by
  induction n with
  | zero => rfl
  | succ n ih =>
    rw [countOnes_succ, countOnes_succ, ← ih, BitVec.getLsbD_xor, BitVec.getLsbD_twoPow,
      decide_eq_true (BitVec.lt_of_getLsbD h)]
    rcases lt_trichotomy i n with hlt | rfl | hgt
    · simp [hlt, hlt.ne, show i < n + 1 by omega]; omega
    · simp [h]
    · simp [hgt.ne', show ¬ i < n by omega, show ¬ i < n + 1 by omega]

theorem exists_getLsbD_of_countOnes_ne_zero {v : BitVec w} {n : Nat} (h : countOnes v n ≠ 0) :
    ∃ i, v.getLsbD i = true := by
  induction n with
  | zero => exact absurd rfl h
  | succ n ih =>
    cases hn : v.getLsbD n with
    | true => exact ⟨n, hn⟩
    | false => exact ih (by rwa [countOnes_succ, hn] at h)

/-- A mask of `n + 1` ones is one of `n` ones with one more bit inverted, which was 0. -/
theorem exists_flipBit_of_popcount_succ {m : Codeword} {n : Nat} (h : popcount m = n + 1) :
    ∃ i, i < 22 ∧ ∃ m' : Codeword, m = m' ^^^ flipBit i ∧ popcount m' = n ∧ m'.getLsbD i = false := by
  obtain ⟨i, hi⟩ := exists_getLsbD_of_countOnes_ne_zero (v := m) (n := 22) (by rw [popcount] at h; omega)
  have hlt : i < 22 := BitVec.lt_of_getLsbD hi
  have count := countOnes_xor_twoPow hi 22
  rw [if_pos hlt] at count
  refine ⟨i, hlt, m ^^^ flipBit i, ?_, ?_, ?_⟩
  · rw [BitVec.xor_assoc, BitVec.xor_self, BitVec.xor_zero]
  · rw [popcount] at h ⊢
    exact Nat.succ.inj (count.trans h)
  · rw [BitVec.getLsbD_xor, hi, getLsbD_flipBit hlt, decide_eq_true rfl, Bool.xor_self]

theorem eq_zero_of_popcount_eq_zero {m : BitVec w} (h : popcount m = 0) : m = 0 := by
  apply BitVec.eq_of_getLsbD_eq
  intro i hi
  rw [show (0 : BitVec w).getLsbD i = false from BitVec.getLsbD_zero, ← Bool.not_eq_true]
  intro hbit
  have count := countOnes_xor_twoPow hbit w
  rw [if_pos hi, show countOnes m w = 0 from h] at count
  exact Nat.succ_ne_zero _ count

theorem exists_flipBit_of_popcount_one {m : Codeword} (h : popcount m = 1) : ∃ i, i < 22 ∧ m = flipBit i := by
  obtain ⟨i, hi, m', rfl, hm', -⟩ := exists_flipBit_of_popcount_succ h
  exact ⟨i, hi, (congrArg (· ^^^ flipBit i) (eq_zero_of_popcount_eq_zero hm')).trans BitVec.zero_xor⟩

theorem exists_flipBit_of_popcount_two {m : Codeword} (h : popcount m = 2) :
    ∃ i j, i < 22 ∧ j < 22 ∧ i ≠ j ∧ m = flipBit i ^^^ flipBit j := by
  obtain ⟨j, hj, m', rfl, hm', hclear⟩ := exists_flipBit_of_popcount_succ h
  obtain ⟨i, hi, rfl⟩ := exists_flipBit_of_popcount_one hm'
  rw [getLsbD_flipBit hi, decide_eq_false_iff_not] at hclear
  exact ⟨i, j, hi, hj, hclear, rfl⟩

/-- Two inverted bits have distinct columns. -/
theorem wordSyndrome_two_flips_ne_zero {i j : Nat} (hi : i < 22) (hj : j < 22) (hne : i ≠ j) :
    wordSyndrome (flipBit i ^^^ flipBit j) ≠ 0 := by
  rw [wordSyndrome_xor, wordSyndrome_flipBit hi, wordSyndrome_flipBit hj]
  refine mt BitVec.xor_eq_zero_iff.1 ?_
  rcases lt_or_gt_of_ne hne with h | h
  · exact hcol_ne_of_lt j hj i h
  · exact (hcol_ne_of_lt i hi j h).symm

theorem popcount_encodeData_even (d : DataWord) : popcount (encodeData d) % 2 = 0 := by
  have hparity := parityBit_encodeData d
  rw [parityBit_eq_odd, decide_eq_false_iff_not] at hparity
  rw [popcount]
  omega

/-- A codeword of two ones would have a non-zero syndrome, and the others of less than four ones are 0 or odd. -/
theorem four_le_popcount_encodeData {d : DataWord} (h : d ≠ 0) : 4 ≤ popcount (encodeData d) := by
  have even := popcount_encodeData_even d
  have not_zero : popcount (encodeData d) ≠ 0 := fun h0 => h (by
    rw [← storedData_encodeData d, eq_zero_of_popcount_eq_zero h0]; rfl)
  have not_two : popcount (encodeData d) ≠ 2 := by
    intro h2
    obtain ⟨i, j, hi, hj, hne, hm⟩ := exists_flipBit_of_popcount_two h2
    exact wordSyndrome_two_flips_ne_zero hi hj hne (hm ▸ wordSyndrome_encodeData d)
  omega

/-- Settles O24: two codewords differ by the codeword of the difference of their data. -/
theorem distinctCodewordsDifferInFourBits : Obligations.DistinctCodewordsDifferInFourBits := by
  intro a b hne
  rw [← encodeData_xor]
  exact four_le_popcount_encodeData (mt BitVec.xor_eq_zero_iff.1 hne)

end Sys2Proof.Machine
end

section
/-! What each operation changes and what it leaves unchanged (R22, R28, R160, R165). -/

namespace Sys2Proof.Machine

theorem eq_execState_of_exec {i : Instr} {s t : State} (h : exec i s = .next t) : t = execState i s :=
  (Host.Outcome.next.inj ((exec_eq i s).symm.trans h)).symm

section Frames

variable {i : Instr} (s : State)

theorem execState_enc (h : ∀ d, i ≠ .encode d) : (execState i s).enc = s.enc := by
  cases i with
  | encode d => exact absurd rfl (h d)
  | parity21 | checkbits | syndrome | synlookup | decode => rfl

theorem execState_dec (h : ∀ raw, i ≠ .decode raw) : (execState i s).dec = s.dec := by
  cases i with
  | decode raw => exact absurd rfl (h raw)
  | parity21 | checkbits | encode | syndrome | synlookup => rfl

theorem execState_draws (h : ∀ raw, i ≠ .decode raw) : (execState i s).draws = s.draws := by
  cases i with
  | decode raw => exact absurd rfl (h raw)
  | parity21 | checkbits | encode | syndrome | synlookup => rfl

theorem execState_parityUnit (h : ∀ w, i ≠ .parity21 w) : (execState i s).parityUnit = s.parityUnit := by
  cases i with
  | parity21 w => exact absurd rfl (h w)
  | checkbits | encode | syndrome | synlookup | decode => rfl

theorem execState_checkBitUnit (h : ∀ d, i ≠ .checkbits d) : (execState i s).checkBitUnit = s.checkBitUnit := by
  cases i with
  | checkbits d => exact absurd rfl (h d)
  | parity21 | encode | syndrome | synlookup | decode => rfl

theorem execState_syndromeUnit (h : ∀ a b, i ≠ .syndrome a b) : (execState i s).syndromeUnit = s.syndromeUnit := by
  cases i with
  | syndrome a b => exact absurd rfl (h a b)
  | parity21 | checkbits | encode | synlookup | decode => rfl

theorem execState_lookupUnit (h : ∀ syn, i ≠ .synlookup syn) : (execState i s).lookupUnit = s.lookupUnit := by
  cases i with
  | synlookup syn => exact absurd rfl (h syn)
  | parity21 | checkbits | encode | syndrome | decode => rfl

end Frames

/-- Settles O43: no operation's state differs in memory or in the host's fields. -/
theorem operationsLeaveMemoryAndHostAlone : Obligations.OperationsLeaveMemoryAndHostAlone := by
  intro i s t h
  obtain rfl := eq_execState_of_exec h
  exact ⟨execState_mem i s, fun a => congrArg (Table.read · a) (execState_mem i s), execState_script i s,
    execState_hpc i s, execState_vars i s⟩

/-- Settles O44: each group's frame. -/
theorem operationsDriveOnlyTheirOwnOutputs : Obligations.OperationsDriveOnlyTheirOwnOutputs := by
  intro i s t h
  obtain rfl := eq_execState_of_exec h
  exact ⟨execState_enc s, fun hi => ⟨execState_dec s hi, execState_draws s hi⟩, execState_parityUnit s,
    execState_checkBitUnit s, execState_syndromeUnit s, execState_lookupUnit s⟩

/-- Settles O45: the two updates are of different fields, and neither operation reads the other's ports. -/
theorem encoderAndDecoderAreIndependent : Obligations.EncoderAndDecoderAreIndependent := fun d raw s =>
  ⟨_, _, _, exec_encode d s, exec_decode raw s, exec_decode raw _, exec_encode d _, rfl, rfl⟩

end Sys2Proof.Machine
end

section
/-! The syndrome of a corrupted codeword and the lookup table (R131 to R135). -/

namespace Sys2Proof.Machine

/-! ### The units on their own -/

/-- Settles O19: each unit's next state is the one `execState` gives it. -/
theorem checkbitsAndSyndromeComplete : Obligations.CheckbitsAndSyndromeComplete :=
  ⟨fun d s => exec_eq (.checkbits d) s, fun a b s => exec_eq (.syndrome a b) s⟩

/-- The table inverts the columns (R133). -/
theorem synLookup_col : ∀ d, d < 16 → synLookup (col d) = (true, BitVec.ofNat 4 d) := by decide

theorem synLookup_miss {s : Syndrome} (h : (synLookup s).1 = false) : (synLookup s).2 = 0 := by
  revert s
  decide

/-- On a hit the index is the data bit whose column was looked up. -/
theorem col_synLookup {s : Syndrome} (h : (synLookup s).1 = true) : col (synLookup s).2.toNat = s := by
  obtain ⟨d, hd, rfl⟩ := (mem_tableSyndromes_iff s).1 ((synLookup_hit_iff s).1 h)
  rw [synLookup_col d hd]
  exact congrArg col (Nat.mod_eq_of_lt hd)

/-- Settles O20: the table's answer is a hit on its values, with the bit of that column, and else index 0. -/
theorem synlookupFindsTheDataBit : Obligations.SynlookupFindsTheDataBit := fun syn s =>
  ⟨_, exec_eq (.synlookup syn) s, rfl, synLookup_hit_iff syn, col_synLookup, synLookup_miss⟩

/-- Settles O21: a bit is recovered from its column by the table, so two bits' columns differ. -/
theorem synlookupInvertsTheColumns : Obligations.SynlookupInvertsTheColumns := by
  refine ⟨synLookup_col, fun d hd e he heq => ?injective, by decide⟩
  have same_index : BitVec.ofNat 4 d = BitVec.ofNat 4 e :=
    congrArg Prod.snd ((synLookup_col d hd).symm.trans ((congrArg synLookup heq).trans (synLookup_col e he)))
  have same_toNat : d % 2 ^ 4 = e % 2 ^ 4 := congrArg BitVec.toNat same_index
  omega

/-! ### Corrupted codewords -/

/-- The stored word's data does not enter the syndrome, only the inverted bits do (R134). -/
theorem wordSyndrome_encodeData_xor (d : DataWord) (m : Codeword) :
    wordSyndrome (encodeData d ^^^ m) = wordSyndrome m := by
  rw [wordSyndrome_xor, wordSyndrome_encodeData]
  exact BitVec.zero_xor

/-- Settles O34: a codeword's fields match, and the parity bit's column is 0. -/
theorem codewordSyndromeIsZero : Obligations.CodewordSyndromeIsZero := by
  refine ⟨wordSyndrome_encodeData, fun c => ?_⟩
  rw [wordSyndrome_xor, wordSyndrome_flipBit (by decide)]
  exact BitVec.xor_zero

/-- The data bits' columns are hits and the redundancy bits' are misses. -/
theorem synLookup_hcol : ∀ j, j < 22 →
    synLookup (hcol j) = if j < 16 then (true, BitVec.ofNat 4 j) else (false, 0) := by decide

/-- Settles O35: the syndrome is linear and 0 on codewords, so it is the mask's own. -/
theorem errorSyndromeLaw : Obligations.ErrorSyndromeLaw :=
  ⟨fun d m => by rw [wordSyndrome_encodeData_xor, wordSyndrome_eq_xorHcol],
    fun d j hj => ⟨by rw [wordSyndrome_encodeData_xor, wordSyndrome_flipBit hj], synLookup_hcol j hj⟩⟩

/-- Settles O36: the syndrome is the XOR of two distinct columns. -/
theorem twoFlipsGiveNonzeroSyndrome : Obligations.TwoFlipsGiveNonzeroSyndrome := by
  intro d i j hi hj hne
  rw [BitVec.xor_assoc, wordSyndrome_encodeData_xor]
  exact wordSyndrome_two_flips_ne_zero hi hj hne

end Sys2Proof.Machine
end

section
/-! The Decoder on corrupted codewords: what its status says of the inverted bits (R147, R149 to R153, R161). -/

namespace Sys2Proof.Machine

/-! ### Status codes, the free draw and the error report -/

/-- Settles O32: the codes count the four statuses, the last of which alone is not ok. -/
theorem statusCodes : Obligations.StatusCodes := by
  refine ⟨rfl, rfl, rfl, rfl, fun c => ?surjective, fun st => by cases st <;> decide⟩
  have code_cases : ∀ c : BitVec 2, c = 0b00 ∨ c = 0b01 ∨ c = 0b10 ∨ c = 0b11 := by decide
  rcases code_cases c with rfl | rfl | rfl | rfl
  · exact ⟨.noError, rfl⟩
  · exact ⟨.correctedData, rfl⟩
  · exact ⟨.redundancyError, rfl⟩
  · exact ⟨.uncorrectable, rfl⟩

/-- Only the uncorrectable outcome reads the draw. -/
theorem decodedData_of_ok {st : DecStatus} (h : st.ok = true) (d : DataWord) (k : BitVec 4) (x y : DataWord) :
    decodedData st d k x = decodedData st d k y := by
  cases st with
  | noError | correctedData | redundancyError => rfl
  | uncorrectable => cases h

theorem decodedData_of_not_ok {st : DecStatus} (h : st.ok = false) (d : DataWord) (k : BitVec 4) (x : DataWord) :
    decodedData st d k x = x := by
  cases st with
  | noError | correctedData | redundancyError => cases h
  | uncorrectable => rfl

/-- Settles O33: the draw enters the outputs through `decodedData` alone, and the bits above not at all. -/
theorem onlyUncorrectableDataIsFree : Obligations.OnlyUncorrectableDataIsFree := fun _ _ _ x y =>
  ⟨rfl, fun h => decodedData_of_ok h _ _ y x,
    fun h => ⟨decodedData_of_not_ok h _ _ x, decodedData_of_not_ok h _ _ y⟩⟩

theorem DecStatus.code_eq_three_iff (st : DecStatus) : st.code = 0b11 ↔ st = .uncorrectable := by
  cases st <;> decide

/-- Settles O41: R161's condition is the uncorrectable status's, and no other operation drives the Decoder's ports. -/
theorem uncorrectableErrorReport : Obligations.UncorrectableErrorReport := by
  refine ⟨fun raw s => ⟨_, _, exec_decode raw s, ?condition, ?code, rfl, rfl⟩, fun i s t h hi => ?frame⟩
  case condition => exact (decodeRaw_ok_eq_false_iff raw _).trans (decodeRaw_uncorrectable_iff raw _)
  case code => exact (decodeRaw_ok_eq_false_iff raw _).trans (DecStatus.code_eq_three_iff _).symm
  case frame => rw [eq_execState_of_exec h, execState_dec s hi]

/-- Settles O39: a miss is no table value, so the mismatch is a redundancy error; the table's values are below 22. -/
theorem unlistedSyndromeIsRedundancyError : Obligations.UnlistedSyndromeIsRedundancyError := by
  intro raw s
  have miss_iff : ∀ syn, (synLookup syn).1 = false ↔ syn ∉ tableSyndromes := fun syn => by
    rw [← synLookup_hit_iff, Bool.not_eq_true]
  refine ⟨_, _, exec_decode raw s, fun hp hmiss => ?outcome, fun h => ?miss⟩
  case outcome =>
    have status := (decodeRaw_redundancyError_iff raw (Config.uncorrData s.draws)).2 ⟨hp, (miss_iff _).1 hmiss⟩
    exact ⟨status, decodeRaw_data_of_redundancyError status, decodeRaw_ok_of_status status (by decide)⟩
  case miss => exact (miss_iff _).2 fun hmem => (toNat_lt_of_mem_tableSyndromes _ hmem).not_ge h

/-! ### Inverted bits -/

/-- The Decoder sees a parity mismatch exactly when the number of inverted bits is odd. -/
theorem parityErr_encodeData_xor (d : DataWord) (m : Codeword) :
    parityErr (encodeData d ^^^ m) = decide (popcount m % 2 = 1) := by
  rw [parityErr_eq_parityBit, parityBit_xor, parityBit_encodeData, Bool.false_xor, parityBit_eq_odd, popcount]

theorem popcount_flipBit {j : Nat} (h : j < 22) : popcount (flipBit j) = 1 := popcount_twoPow h

theorem popcount_two_flips {i j : Nat} (hi : i < 22) (hj : j < 22) (hne : i ≠ j) :
    popcount (flipBit i ^^^ flipBit j) = 2 := by
  have bit_j : (flipBit i ^^^ flipBit j).getLsbD j = true := by
    rw [BitVec.getLsbD_xor, getLsbD_flipBit hi, getLsbD_flipBit hj, decide_eq_true rfl, decide_eq_false hne]
    rfl
  have count := countOnes_xor_twoPow bit_j 22
  have cleared : flipBit i ^^^ flipBit j ^^^ BitVec.twoPow 22 j = flipBit i := by
    rw [BitVec.xor_assoc, show flipBit j = BitVec.twoPow 22 j from rfl, BitVec.xor_self, BitVec.xor_zero]
  rw [cleared, if_pos hj, ← popcount, ← popcount, popcount_flipBit hi] at count
  exact count.symm

theorem storedData_flipBit_redundancy {j : Nat} (h16 : 16 ≤ j) (h22 : j < 22) : storedData (flipBit j) = 0 := by
  apply BitVec.eq_of_getLsbD_eq
  intro i hi
  rw [getLsbD_storedData, getLsbD_flipBit h22, decide_eq_false (p := j = i) (by omega), Bool.and_false]
  exact BitVec.getLsbD_zero.symm

section Outcomes

variable (d : DataWord) (high : Nat) (x : DataWord)

/-- The round trip. -/
theorem decodeRaw_encodeData :
    let p := decodeRaw { cw := encodeData d, high := high } x
    p.status = .noError ∧ p.data = d ∧ p.ok = true := by
  have status : (decodeRaw { cw := encodeData d, high := high } x).status = .noError :=
    (decodeRaw_noError_iff _ x).2
      ⟨(parityErr_eq_parityBit _).trans (parityBit_encodeData d), wordSyndrome_encodeData d⟩
  exact ⟨status, (decodeRaw_data_of_noError status).trans (storedData_encodeData d),
    decodeRaw_ok_of_status status (by decide)⟩

/-- One inverted data bit is a parity mismatch with that bit's column, which the table sends back to the bit. -/
theorem decodeRaw_flip_data {i : Nat} (hi : i < 16) :
    let p := decodeRaw { cw := encodeData d ^^^ flipBit i, high := high } x
    p.status = .correctedData ∧ p.data = d ∧ p.ok = true := by
  have mismatch : parityErr (encodeData d ^^^ flipBit i) = true := by
    rw [parityErr_encodeData_xor, popcount_flipBit (by omega)]; rfl
  have column : wordSyndrome (encodeData d ^^^ flipBit i) = col i := by
    rw [wordSyndrome_encodeData_xor, wordSyndrome_flipBit_data hi]
  have listed : wordSyndrome (encodeData d ^^^ flipBit i) ∈ tableSyndromes :=
    (mem_tableSyndromes_iff _).2 ⟨i, hi, column.symm⟩
  have status : (decodeRaw { cw := encodeData d ^^^ flipBit i, high := high } x).status = .correctedData :=
    (decodeRaw_correctedData_iff _ x).2 ⟨mismatch, listed⟩
  refine ⟨status, ?_, decodeRaw_ok_of_status status (by decide)⟩
  have index : (BitVec.ofNat 4 i).toNat = i := Nat.mod_eq_of_lt hi
  rw [decodeRaw_data_of_correctedData status, decodeRaw_syndrome, column, synLookup_col i hi, index, storedData_xor,
    storedData_encodeData, storedData_flipBit hi, BitVec.xor_assoc, BitVec.xor_self, BitVec.xor_zero]

/-- One inverted redundancy bit is a parity mismatch whose syndrome misses the table. -/
theorem decodeRaw_flip_redundancy {j : Nat} (h16 : 16 ≤ j) (h22 : j < 22) :
    let p := decodeRaw { cw := encodeData d ^^^ flipBit j, high := high } x
    p.status = .redundancyError ∧ p.data = d ∧ p.ok = true := by
  have mismatch : parityErr (encodeData d ^^^ flipBit j) = true := by
    rw [parityErr_encodeData_xor, popcount_flipBit h22]; rfl
  have miss : wordSyndrome (encodeData d ^^^ flipBit j) ∉ tableSyndromes := by
    rw [wordSyndrome_encodeData_xor, wordSyndrome_flipBit h22, ← synLookup_hit_iff, synLookup_hcol j h22,
      if_neg h16.not_gt]
    exact Bool.false_ne_true
  have status : (decodeRaw { cw := encodeData d ^^^ flipBit j, high := high } x).status = .redundancyError :=
    (decodeRaw_redundancyError_iff _ x).2 ⟨mismatch, miss⟩
  refine ⟨status, ?_, decodeRaw_ok_of_status status (by decide)⟩
  rw [decodeRaw_data_of_redundancyError status, storedData_xor, storedData_encodeData,
    storedData_flipBit_redundancy h16 h22]
  exact BitVec.xor_zero

/-- Two inverted bits leave the parities equal and the syndrome not 0. -/
theorem decodeRaw_two_flips {i j : Nat} (hi : i < 22) (hj : j < 22) (hne : i ≠ j) :
    let p := decodeRaw { cw := encodeData d ^^^ (flipBit i ^^^ flipBit j), high := high } x
    p.status = .uncorrectable ∧ p.ok = false := by
  have matched : parityErr (encodeData d ^^^ (flipBit i ^^^ flipBit j)) = false := by
    rw [parityErr_encodeData_xor, popcount_two_flips hi hj hne]; rfl
  have nonzero : wordSyndrome (encodeData d ^^^ (flipBit i ^^^ flipBit j)) ≠ 0 := by
    rw [wordSyndrome_encodeData_xor]
    exact wordSyndrome_two_flips_ne_zero hi hj hne
  have status := (decodeRaw_uncorrectable_iff
    { cw := encodeData d ^^^ (flipBit i ^^^ flipBit j), high := high } x).2 ⟨matched, nonzero⟩
  exact ⟨status, (decodeRaw_ok_eq_false_iff _ x).2 status⟩

/-- The four outcomes within the contract: none, one data bit, one redundancy bit, or two bits inverted. -/
theorem decodeRaw_cases_of_popcount_le_two {m : Codeword} (h : popcount m ≤ 2) :
    let p := decodeRaw { cw := encodeData d ^^^ m, high := high } x
    (popcount m = 0 ∧ p.status = .noError ∧ p.data = d ∧ p.ok = true) ∨
    ((popcount m = 1 ∧ countOnes m 16 = 1) ∧ p.status = .correctedData ∧ p.data = d ∧ p.ok = true) ∨
    ((popcount m = 1 ∧ countOnes m 16 = 0) ∧ p.status = .redundancyError ∧ p.data = d ∧ p.ok = true) ∨
    (popcount m = 2 ∧ p.status = .uncorrectable ∧ p.ok = false) := by
  have weight : popcount m = 0 ∨ popcount m = 1 ∨ popcount m = 2 := by omega
  rcases weight with h0 | h1 | h2
  · obtain rfl := eq_zero_of_popcount_eq_zero h0
    rw [show encodeData d ^^^ 0 = encodeData d from BitVec.xor_zero]
    exact .inl ⟨h0, decodeRaw_encodeData d high x⟩
  · obtain ⟨i, hi, rfl⟩ := exists_flipBit_of_popcount_one h1
    have count : countOnes (flipBit i) 16 = if i < 16 then 1 else 0 := countOnes_twoPow hi 16
    by_cases h16 : i < 16
    · exact .inr (.inl ⟨⟨h1, count.trans (if_pos h16)⟩, decodeRaw_flip_data d high x h16⟩)
    · exact .inr (.inr (.inl
        ⟨⟨h1, count.trans (if_neg h16)⟩, decodeRaw_flip_redundancy d high x (not_lt.1 h16) hi⟩))
  · obtain ⟨i, j, hi, hj, hne, rfl⟩ := exists_flipBit_of_popcount_two h2
    exact .inr (.inr (.inr ⟨h2, decodeRaw_two_flips d high x hi hj hne⟩))

theorem decodeRaw_data_of_ok {m : Codeword} (h : popcount m ≤ 2)
    (hok : (decodeRaw { cw := encodeData d ^^^ m, high := high } x).ok = true) :
    (decodeRaw { cw := encodeData d ^^^ m, high := high } x).data = d := by
  rcases decodeRaw_cases_of_popcount_le_two d high x h with
    ⟨-, -, hdata, -⟩ | ⟨-, -, hdata, -⟩ | ⟨-, -, hdata, -⟩ | ⟨-, -, hnot⟩
  · exact hdata
  · exact hdata
  · exact hdata
  · exact absurd (hnot.symm.trans hok) Bool.false_ne_true

end Outcomes

/-- Settles O37: the four properties are the Decoder's outcomes on none, one and two inverted bits. -/
theorem secdedGuarantees : Obligations.SecdedGuarantees := by
  intro d high s
  refine ⟨⟨_, ⟨_, exec_decode _ s⟩, decodeRaw_encodeData d high _⟩,
    fun i hi => ⟨_, ⟨_, exec_decode _ s⟩, decodeRaw_flip_data d high _ hi⟩,
    fun j h16 h22 => ⟨_, ⟨_, exec_decode _ s⟩, decodeRaw_flip_redundancy d high _ h16 h22⟩,
    fun i j hi hj hne => ⟨_, ⟨_, exec_decode _ s⟩, ?_⟩⟩
  rw [BitVec.xor_assoc]
  exact decodeRaw_two_flips d high _ hi hj hne

/-- Settles O38: in each of the four outcomes within the contract the status and the counts are known. -/
theorem statusCountsInvertedBits : Obligations.StatusCountsInvertedBits := by
  intro d m high x h
  rcases decodeRaw_cases_of_popcount_le_two d high x h with
    ⟨hm, hst, -⟩ | ⟨⟨hm, hlow⟩, hst, -⟩ | ⟨⟨hm, hlow⟩, hst, -⟩ | ⟨hm, hst, -⟩
  · simp [hst, hm]
  · simp [hst, hm, hlow]
  · simp [hst, hm, hlow]
  · simp [hst, hm]

/-- Settles O40: the parity error is the parity of the number of inverted bits, and a mismatch is never uncorrectable;
the two words are decoded by their parity error, syndrome and table entry. -/
theorem beyondTheContract : Obligations.BeyondTheContract := by
  refine ⟨fun d m high x => ⟨fun hodd => ?odd, fun heven => ?even⟩, fun high x => ?examples⟩
  case odd =>
    have mismatch : parityErr (encodeData d ^^^ m) = true := by
      rw [parityErr_encodeData_xor, decide_eq_true hodd]
    refine ⟨mismatch, Bool.eq_true_of_not_eq_false fun hok => ?_⟩
    obtain ⟨matched, -⟩ := (decodeRaw_uncorrectable_iff _ x).1 ((decodeRaw_ok_eq_false_iff _ x).1 hok)
    exact Bool.false_ne_true (matched.symm.trans mismatch)
  case even =>
    rw [decodeRaw_parityErr, parityErr_encodeData_xor, decide_eq_false (by omega)]
  case examples =>
    have three_ports := decodeRaw_eq (cw := encodeData 0x1234 ^^^ flipBit 0 ^^^ flipBit 1 ^^^ flipBit 16)
      (perr := true) (syn := 7) (look := (true, 3)) high x (by decide) (by decide) rfl
    have four_ports := decodeRaw_eq (cw := encodeData 0x1234 ^^^ flipBit 0 ^^^ flipBit 1 ^^^ flipBit 2 ^^^ flipBit 21)
      (perr := false) (syn := 0) (look := (false, 0)) high x (by decide) (by decide) rfl
    simp only [three_ports, four_ports]
    refine ⟨trivial, ?_, rfl, rfl, ?_, rfl, rfl⟩
    · change storedData _ ^^^ (1 : DataWord) <<< 3 = _
      decide
    · change storedData _ = _
      decide

end Sys2Proof.Machine
end

section
/-! The host's steps, one by one: what each leaves in every part of the state (R41 to R45, R72). -/

namespace Sys2Proof.Machine

/-! ### Drives -/

theorem finishDrive_eq (op : Op) (dst : Option HostVar) (s : State) : finishDrive op dst s =
    { s with
      hpc := s.hpc + 1
      draws := s.draws + 1
      vars := match dst with
        | some h => Table.write s.vars h (s.sample (resultPort op))
        | none => s.vars } := by
  cases dst <;> rfl

/-- A drive step's state, written out over the operation's. -/
theorem driveState_eq (i : Instr) (op : Op) (dst : Option HostVar) (s : State) : driveState i op dst s =
    { execState i s with
      hpc := s.hpc + 1
      draws := (execState i s).draws + 1
      vars := match dst with
        | some h => Table.write s.vars h ((execState i s).sample (resultPort op))
        | none => s.vars } := by
  rw [driveState, finishDrive_eq, execState_hpc, execState_vars]

theorem step_drive {s : State} {op : Op} {e : HExpr} {dst : Option HostVar} {i : Instr}
    (hf : s.script[s.hpc]? = some (.drive op e dst)) (hi : drivenInstr op (evalExpr s e) s.draws = i) :
    step s = .next (driveState i op dst s) := by
  rw [← hi, step_of_fetch hf]
  exact runDrive_eq op e dst s

/-- Settles O46: on a word of the input the operation that runs is the decoded one. -/
theorem stepRunsTheDrivenOperation : Obligations.StepRunsTheDrivenOperation := fun s op _ dst i hf hi =>
  ⟨execState i s, exec_eq i s,
    (step_drive hf (drivenInstr_of_ok s.draws hi)).trans (congrArg Host.Outcome.next (driveState_eq i op dst s))⟩

/-- The operation on a word of an input is what the decoder reads from some number the input carries. -/
theorem exists_decode_eq_instrOfBits (op : Op) (x : Nat) :
    ∃ v, PortCarries op v ∧ Sys2Proof.decode { op := op, value := v } = .ok (instrOfBits op x) := by
  have carried := encode_carries (instrOfBits_wellFormed op x)
  have decoded := decode_encode (instrOfBits_wellFormed op x)
  have drive_eq : Sys2Proof.encode (instrOfBits op x) =
      { op := op, value := (Sys2Proof.encode (instrOfBits op x)).value } :=
    congrArg (Drive.mk · _) (encode_instrOfBits_op op x)
  rw [encode_instrOfBits_op] at carried
  exact ⟨_, carried, drive_eq ▸ decoded⟩

/-- Settles O47: the operation that runs is on the bits of a draw, and a word is the bits of its own number. -/
theorem stepRunsATooWideDriveOnAFreeWord : Obligations.StepRunsATooWideDriveOnAFreeWord := by
  refine ⟨fun s op e dst hf hwide => ?step, fun op v i hi => ⟨v, (eq_instrOfBits_of_decode hi).symm⟩⟩
  obtain ⟨v, carried, decoded⟩ := exists_decode_eq_instrOfBits op (Config.wideDrive op s.draws)
  exact ⟨v, _, _, carried, decoded, exec_eq _ s,
    (step_drive hf (drivenInstr_of_error s.draws (decode_of_not_carries hwide))).trans
      (congrArg Host.Outcome.next (driveState_eq _ op dst s))⟩

/-! ### The collaborator's store and load -/

theorem storeRaw_eq (a : Addr) (v : Nat) (s : State) :
    storeRaw a v s = { s with mem := Table.write s.mem a (zextRaw (BitVec.ofNat 22 v)) } := rfl

/-- Settles O48: the word written is `v[21:0]`, at its own address alone. -/
theorem storeHoldsTheLow22Bits : Obligations.StoreHoldsTheLow22Bits := fun a v s =>
  ⟨_, _, storeRaw_eq a v s, Table.read_write_same _ _ _, fun i hi => by
    rw [zextRaw, BitVec.getLsbD_ofNat, decide_eq_true hi, Bool.true_and], fun _ hb => Table.read_write_other _ _ hb⟩

/-- A load of a stored word inverts the bits of the bounded mask (R44). -/
theorem loadWord_cw_of_read {m : Memory} {a : Addr} {w : RawWord} (h : Table.read m a = some w) (n : Nat) :
    (loadWord m a n).cw = w.cw ^^^ boundMask (Config.flipMask n) := by
  rw [loadWord, h]
  rfl

theorem popcount_loadWord_xor_le_two {m : Memory} {a : Addr} {w : RawWord} (h : Table.read m a = some w) (n : Nat) :
    popcount ((loadWord m a n).cw ^^^ w.cw) ≤ 2 := by
  rw [loadWord_cw_of_read h, BitVec.xor_comm, ← BitVec.xor_assoc, BitVec.xor_self, BitVec.zero_xor]
  exact popcount_boundMask_le _

/-- Settles O49: what a load inverts is the bounded mask, and a mask under the bound is its own bounded mask. -/
theorem loadInvertsAtMostTwoBits : Obligations.LoadInvertsAtMostTwoBits :=
  ⟨fun _ _ n _ h => popcount_loadWord_xor_le_two h n, fun m h => ⟨m, boundMask_of_le h⟩⟩

theorem step_store {s : State} {a v : HExpr} (hf : s.script[s.hpc]? = some (.store a v)) :
    step s = .next (storeRaw (evalExpr s a) (evalExpr s v) s).advance := step_of_fetch hf

theorem step_load {s : State} {a : HExpr} {h : HostVar} (hf : s.script[s.hpc]? = some (.load a h)) :
    step s = .next (loadRaw (evalExpr s a) h s).advance := step_of_fetch hf

theorem step_flip {s : State} {a m : HExpr} (hf : s.script[s.hpc]? = some (.flip a m)) :
    step s = .next (flipRaw (evalExpr s a) (evalExpr s m) s).advance := step_of_fetch hf

theorem step_ifGoto {s : State} {c : HExpr} {n : Nat} (hf : s.script[s.hpc]? = some (.ifGoto c n)) :
    step s = .next (runIfGoto c n s) := step_of_fetch hf

theorem step_assign {s : State} {h : HostVar} {e : HExpr} (hf : s.script[s.hpc]? = some (.assign h e)) :
    step s = .next (s.setVar h (evalExpr s e)).advance := step_of_fetch hf

/-- Settles O50: the step is the collaborator's store, then the next step. -/
theorem storeStep : Obligations.StoreStep := fun _ _ _ hf =>
  ⟨_, step_store hf, Table.read_write_same _ _ _, fun _ hb => Table.read_write_other _ _ hb⟩

/-- Settles O51: the step sets its variable to the loaded word, which has `RAW_W` bits. -/
theorem loadStep : Obligations.LoadStep := fun s a _ hf =>
  ⟨loadWord s.mem (evalExpr s a) s.draws, _, _, step_load hf, Table.read_write_same _ _ _,
    fun _ hk => Table.read_write_other _ _ hk, loadWord_fits _ _ _, fun _ hr => popcount_loadWord_xor_le_two hr _⟩

/-! ### FLIP -/

/-- Bits 0 to 21 of the flipped word. -/
theorem getLsbD_xorRaw_ofNat_cw (w : RawWord) (m : Nat) {i : Nat} (h : i < 22) :
    (xorRaw w (RawWord.ofNat m)).cw.getLsbD i = (w.cw.getLsbD i ^^ m.testBit i) := by
  rw [xorRaw, BitVec.getLsbD_xor, RawWord.getLsbD_ofNat_cw m h]

/-- Bits 22 to `RAW_W - 1` of the flipped word. -/
theorem testBit_xorRaw_ofNat_high (w : RawWord) (m : Nat) {i : Nat} (h : i < Config.rawHighW) :
    (xorRaw w (RawWord.ofNat m)).high.testBit i = (w.high.testBit i ^^ m.testBit (22 + i)) := by
  rw [xorRaw, cutHigh, Nat.testBit_mod_two_pow, decide_eq_true h, Bool.true_and, Nat.testBit_xor, RawWord.ofNat,
    Nat.testBit_div_two_pow, Nat.add_comm]

/-- Settles O52: FLIP writes the stored word with the mask's bits inverted, or nothing. -/
theorem flipInvertsExactlyTheMask : Obligations.FlipInvertsExactlyTheMask := by
  intro s a m hf
  refine ⟨(flipRaw (evalExpr s a) (evalExpr s m) s).mem, ?step, fun b hb => flipRaw_read_other _ _ s hb,
    fun hnone => ?unwritten, fun w hw => ?written⟩
  case step =>
    rw [step_flip hf, flipRaw_eq_setMem]
    rfl
  case unwritten => rw [flipRaw, hnone]
  case written =>
    refine ⟨xorRaw w (RawWord.ofNat (evalExpr s m)), ?_, xorRaw_fits _ _, fun i => getLsbD_xorRaw_ofNat_cw w _,
      fun i => testBit_xorRaw_ofNat_high w _⟩
    rw [flipRaw, hw]
    exact Table.read_write_same _ _ _

/-! ### Host-only steps -/

theorem runIfGoto_eq (c : HExpr) (n : Nat) (s : State) : runIfGoto c n s =
    { s with hpc := if evalExpr s c ≠ 0 then n - 1 else s.hpc + 1, draws := s.draws + 1 } := by
  rw [runIfGoto]
  by_cases h : evalExpr s c = 0
  · rw [if_pos h, if_neg (not_not.2 h)]; rfl
  · rw [if_neg h, if_pos h]; rfl

/-- Settles O53: a jump sets the host's place, an assignment its variable, and HALT and the end nothing. -/
theorem hostOnlySteps : Obligations.HostOnlySteps := by
  refine ⟨fun s c n hf => ?ifGoto, fun s h e hf => ?assign, fun s hf => step_of_fetch hf, fun s hend => ?scriptEnd⟩
  case ifGoto => rw [step_ifGoto hf, runIfGoto_eq]
  case assign =>
    exact ⟨_, step_assign hf, Table.read_write_same _ _ _, fun _ hk => Table.read_write_other _ _ hk⟩
  case scriptEnd => exact step_of_end (List.getElem?_eq_none hend)

end Sys2Proof.Machine
end

section
/-! Runs of host steps: a load sees the last store, and WRITE, READ and SCRUB as runs (R51, R72, R150). -/

namespace Sys2Proof.Machine

/-! ### Steps that write nothing at an address -/

@[simp] theorem driveState_mem (i : Instr) (op : Op) (dst : Option HostVar) (s : State) :
    (driveState i op dst s).mem = s.mem := by rw [driveState, finishDrive_mem, execState_mem]

@[simp] theorem driveState_script (i : Instr) (op : Op) (dst : Option HostVar) (s : State) :
    (driveState i op dst s).script = s.script := by rw [driveState, finishDrive_script, execState_script]

@[simp] theorem driveState_hpc (i : Instr) (op : Op) (dst : Option HostVar) (s : State) :
    (driveState i op dst s).hpc = s.hpc + 1 := by rw [driveState, finishDrive_hpc, execState_hpc]

/-- Only an ST or a FLIP at the address changes its word. -/
theorem read_mem_of_step {s t : State} {a : Addr} (h : step s = .next t) (ha : ¬ WritesAt a s) :
    Table.read t.mem a = Table.read s.mem a := by
  rcases step_next_cases h with ⟨rfl, -⟩ | ⟨op, e, dst, hf, rfl⟩ | ⟨x, v, hf, rfl⟩ | ⟨x, r, hf, rfl⟩ |
    ⟨x, m, hf, rfl⟩ | ⟨c, n, hf, rfl⟩ | ⟨r, e, hf, rfl⟩
  · rfl
  · rw [driveState_mem]
  · exact Table.read_write_other _ _ fun heq => ha ⟨x, v, .inl hf, heq.symm⟩
  · rfl
  · exact flipRaw_read_other _ _ s fun heq => ha ⟨x, m, .inr hf, heq.symm⟩
  · rw [runIfGoto_eq]
  · rfl

theorem read_mem_of_runSteps {a : Addr} {k : Nat} {s t : State} (hquiet : NoWriteAt a k s)
    (hrun : runSteps k s = .next t) : Table.read t.mem a = Table.read s.mem a := by
  induction k generalizing s with
  | zero => rw [Host.Outcome.next.inj hrun]
  | succ k ih =>
    obtain ⟨s', hstep⟩ := everyStepAnswersANextState s
    obtain ⟨hnow, hlater⟩ := hquiet
    rw [runSteps_succ k hstep] at hrun
    rw [ih (hlater s' hstep) hrun, read_mem_of_step hstep hnow]

/-- Settles O54: the steps between leave the stored word alone, and the load inverts at most two bits of it. -/
theorem storeThenLoadSeesTheStore : Obligations.StoreThenLoadSeesTheStore := by
  refine ⟨fun s t a => read_mem_of_step, fun s a v hf => ⟨_, step_store hf, rfl, fun b hb => ?others,
    fun k t l h hquiet hrun hload haddr => ?load⟩⟩
  case others => exact Table.read_write_other _ _ hb
  case load =>
    have stored : Table.read t.mem (evalExpr t l) = some (zextRaw (BitVec.ofNat 22 (evalExpr s v))) := by
      rw [haddr, read_mem_of_runSteps hquiet hrun]
      exact Table.read_write_same _ _ _
    exact ⟨_, loadWord t.mem (evalExpr t l) t.draws, step_load hload, rfl, Table.read_write_same _ _ _,
      popcount_loadWord_xor_le_two stored _, fun _ => rfl⟩

/-! ### Running a script piece by piece -/

theorem runSteps_add {m : Nat} {s t : State} (n : Nat) (h : runSteps m s = .next t) :
    runSteps (m + n) s = runSteps n t := by
  induction m generalizing s with
  | zero => rw [Host.Outcome.next.inj h, Nat.zero_add]
  | succ m ih =>
    obtain ⟨s', hstep⟩ := everyStepAnswersANextState s
    rw [runSteps_succ m hstep] at h
    rw [Nat.add_right_comm, runSteps_succ (m + n) hstep, ih h]

theorem runSteps_one {s t : State} (h : step s = .next t) : runSteps 1 s = .next t := runSteps_succ 0 h

theorem runSteps_two {s t u : State} (h : step s = .next t) (h' : step t = .next u) : runSteps 2 s = .next u :=
  (runSteps_succ 1 h).trans (runSteps_one h')

/-- What is left of the script after the steps at its head. -/
theorem drop_of_drop_append {s t : State} {steps rest : List HostStep} (hd : s.script.drop s.hpc = steps ++ rest)
    (hscript : t.script = s.script) (hhpc : t.hpc = s.hpc + steps.length) : t.script.drop t.hpc = rest := by
  rw [hscript, hhpc, ← List.drop_drop, hd, List.drop_left]

theorem step_ifGoto_taken {s : State} {c : HExpr} {n : Nat} (hf : s.script[s.hpc]? = some (.ifGoto c n))
    (h : evalExpr s c ≠ 0) : step s = .next (s.goto (n - 1)).useDraw :=
  (step_ifGoto hf).trans (congrArg Host.Outcome.next (if_neg h))

theorem step_ifGoto_not_taken {s : State} {c : HExpr} {n : Nat} (hf : s.script[s.hpc]? = some (.ifGoto c n))
    (h : evalExpr s c = 0) : step s = .next s.advance :=
  (step_ifGoto hf).trans (congrArg Host.Outcome.next (if_pos h))

/-! ### Expressions -/

theorem readVar_of_read {s : State} {h : HostVar} {n : Nat} (hr : Table.read s.vars h = some n) :
    s.readVar h = n := by rw [State.readVar, hr]

theorem sample_of_output {s : State} {p : Port} {n : Nat} (ho : s.output p = some n) : s.sample p = n := by
  rw [State.sample, ho]

/-- A comparison with a literal holds exactly when the value is the literal (R10). -/
theorem evalExpr_eq_const_ne_zero_iff (s : State) (e : HExpr) (n : Nat) :
    evalExpr s (.eq e (.const n)) ≠ 0 ↔ evalExpr s e = n := by
  rw [evalExpr, evalExpr, Ne, Bool.toNat_eq_zero, Bool.not_eq_false, decide_eq_true_iff]

theorem ExprStays.mono {e : HExpr} {s : State} {scratch scratch' : List HostVar} (h : ExprStays e s scratch')
    (hsub : scratch ⊆ scratch') : ExprStays e s scratch := fun t ht => h t fun k hk => ht k fun hmem => hk (hsub hmem)

/-- The expression stays what it is in every state that differs in the scratch variables only. -/
theorem ExprStays.of_agree {e : HExpr} {s t : State} {scratch : List HostVar} (h : ExprStays e s scratch)
    (ht : ∀ k, k ∉ scratch → Table.read t.vars k = Table.read s.vars k) : ExprStays e t scratch := fun u hu =>
  (h u fun k hk => (hu k hk).trans (ht k hk)).trans (h t ht).symm

/-! ### WRITE and READ -/

/-- The state WRITE leaves: the codeword of `d` stored at `a` and left in the host variable `h`. -/
def writeState (a : Addr) (d : DataWord) (h : HostVar) (s : State) : State :=
  (storeRaw a (encodeData d).toNat (driveState (.encode d) .encode (some h) s)).advance

@[simp] theorem writeState_script (a : Addr) (d : DataWord) (h : HostVar) (s : State) :
    (writeState a d h s).script = s.script := driveState_script (.encode d) .encode (some h) s

@[simp] theorem writeState_hpc (a : Addr) (d : DataWord) (h : HostVar) (s : State) :
    (writeState a d h s).hpc = s.hpc + 2 := congrArg (· + 1) (driveState_hpc (.encode d) .encode (some h) s)

theorem writeState_mem (a : Addr) (d : DataWord) (h : HostVar) (s : State) :
    (writeState a d h s).mem = Table.write s.mem a (zextRaw (encodeData d)) := by
  change Table.write s.mem a (zextRaw (BitVec.ofNat 22 (encodeData d).toNat)) = _
  rw [BitVec.ofNat_toNat, BitVec.setWidth_eq]

/-- WRITE runs to its state (R72). -/
theorem run_writeSteps {s : State} {a e : HExpr} {h : HostVar} {rest : List HostStep} {d : DataWord}
    (hd : s.script.drop s.hpc = writeSteps a e h ++ rest) (he : evalExpr s e = d.toNat) (ha : ExprStays a s [h]) :
    runSteps 2 s = .next (writeState (evalExpr s a) d h s) := by
  let s' := driveState (.encode d) .encode (some h) s
  have encoded : step s = .next s' :=
    step_drive (fetch_of_drop hd) (drivenInstr_of_ok _ (he ▸ decode_encode (i := .encode d) rfl))
  have at_store : s'.script.drop s'.hpc = .store a (.var h) :: rest :=
    drop_of_drop_append (steps := [enc e h]) hd (driveState_script _ _ _ s) (driveState_hpc _ _ _ s)
  have address : evalExpr s' a = evalExpr s a :=
    ha s' fun k hk => Table.read_write_other _ _ (List.ne_of_not_mem_cons hk)
  have value : evalExpr s' (.var h) = (encodeData d).toNat := readVar_of_read (Table.read_write_same _ _ _)
  rw [runSteps_two encoded (step_store (fetch_of_drop at_store)), address, value, writeState]

/-- The state READ leaves: the loaded word in the host variable `r` and on `dec_raw`. -/
def readState (a : Addr) (r : HostVar) (s : State) : State :=
  driveState (.decode (loadWord s.mem a s.draws)) .decode none (loadRaw a r s).advance

@[simp] theorem readState_script (a : Addr) (r : HostVar) (s : State) : (readState a r s).script = s.script :=
  driveState_script (.decode (loadWord s.mem a s.draws)) .decode none (loadRaw a r s).advance

@[simp] theorem readState_hpc (a : Addr) (r : HostVar) (s : State) : (readState a r s).hpc = s.hpc + 2 :=
  driveState_hpc (.decode (loadWord s.mem a s.draws)) .decode none (loadRaw a r s).advance

@[simp] theorem readState_mem (a : Addr) (r : HostVar) (s : State) : (readState a r s).mem = s.mem :=
  driveState_mem (.decode (loadWord s.mem a s.draws)) .decode none (loadRaw a r s).advance

theorem readState_dec (a : Addr) (r : HostVar) (s : State) :
    ∃ x, (readState a r s).dec = some (decodeRaw (loadWord s.mem a s.draws) x) := ⟨_, rfl⟩

theorem readState_vars_other (a : Addr) {r k : HostVar} (s : State) (hk : k ≠ r) :
    Table.read (readState a r s).vars k = Table.read s.vars k := Table.read_write_other _ _ hk

/-- READ runs to its state (R72). -/
theorem run_readSteps {s : State} {a : HExpr} {r : HostVar} {rest : List HostStep}
    (hd : s.script.drop s.hpc = readSteps a r ++ rest) : runSteps 2 s = .next (readState (evalExpr s a) r s) := by
  have loaded := step_load (s := s) (fetch_of_drop hd)
  have at_decode : (loadRaw (evalExpr s a) r s).advance.script.drop (loadRaw (evalExpr s a) r s).advance.hpc =
      dec (.var r) :: rest := drop_of_drop_append (steps := [.load a r]) hd rfl rfl
  have value : evalExpr (loadRaw (evalExpr s a) r s).advance (.var r) =
      (loadWord s.mem (evalExpr s a) s.draws).toNat := readVar_of_read (Table.read_write_same _ _ _)
  have well_formed : (Instr.decode (loadWord s.mem (evalExpr s a) s.draws)).wellFormed = true := loadWord_fits _ _ _
  exact runSteps_two loaded
    (step_drive (fetch_of_drop at_decode) (drivenInstr_of_ok _ (value ▸ decode_encode well_formed)))

/-- A stored word is loaded with at most two of its low 22 bits inverted. -/
theorem exists_mask_loadWord {m : Memory} {a : Addr} {w : RawWord} (h : Table.read m a = some w) (n : Nat) :
    ∃ (mask : Codeword) (high : Nat), popcount mask ≤ 2 ∧
      loadWord m a n = { cw := w.cw ^^^ mask, high := high } :=
  ⟨boundMask (Config.flipMask n), (loadWord m a n).high, popcount_boundMask_le _,
    congrArg (RawWord.mk · _) (loadWord_cw_of_read h n)⟩

/-- READ of a stored codeword decodes it with at most two bits inverted. -/
theorem exists_mask_readState_dec {s : State} {a : Addr} {d : DataWord} {g : Nat} (r : HostVar)
    (h : Table.read s.mem a = some { cw := encodeData d, high := g }) :
    ∃ (mask : Codeword) (high : Nat) (x : DataWord), popcount mask ≤ 2 ∧
      (readState a r s).dec = some (decodeRaw { cw := encodeData d ^^^ mask, high := high } x) := by
  obtain ⟨mask, high, hle, hload⟩ := exists_mask_loadWord h s.draws
  obtain ⟨x, hdec⟩ := readState_dec a r s
  exact ⟨mask, high, x, hle, hload ▸ hdec⟩

/-- Settles O55: WRITE stores the codeword, READ decodes it with at most two bits inverted, and within the contract the
status counts them. -/
theorem writeThenReadIsNeverSilentlyWrong : Obligations.WriteThenReadIsNeverSilentlyWrong := by
  intro s a e d h r rest hd he ha
  rw [List.append_assoc] at hd
  let s' := writeState (evalExpr s a) d h s
  have written : runSteps 2 s = .next s' := run_writeSteps hd he (ha.mono (by simp))
  have at_read : s'.script.drop s'.hpc = readSteps a r ++ rest :=
    drop_of_drop_append hd (writeState_script (evalExpr s a) d h s) (writeState_hpc (evalExpr s a) d h s)
  have address : evalExpr s' a = evalExpr s a :=
    ha s' fun k hk => Table.read_write_other _ _ (List.ne_of_not_mem_cons hk)
  have stored : Table.read s'.mem (evalExpr s a) = some { cw := encodeData d, high := 0 } := by
    rw [writeState_mem]
    exact Table.read_write_same _ _ _
  obtain ⟨m, high, x, hle, hdec⟩ := exists_mask_readState_dec r stored
  obtain ⟨noError, corrected, redundancy, uncorrectable⟩ := statusCountsInvertedBits d m high x hle
  refine ⟨readState (evalExpr s a) r s', _, m, ?run, rfl, hdec, hle, rfl, noError, corrected, redundancy, uncorrectable,
    decodeRaw_data_of_ok d high x hle, (decodeRaw_ok_eq_false_iff _ x).trans uncorrectable, stored, fun b hb => ?others⟩
  case run => rw [runSteps_add 2 written, run_readSteps at_read, address]
  case others =>
    rw [readState_mem, writeState_mem]
    exact Table.read_write_other _ _ hb

/-! ### SCRUB -/

/-- SCRUB's first jump is taken exactly on an uncorrectable word. -/
theorem decOk_eq_zero_holds_iff {s : State} {p : DecPorts} (h : s.dec = some p) :
    evalExpr s (.eq (.port .decOk) (.const 0)) ≠ 0 ↔ p.ok = false := by
  have value : evalExpr s (.port .decOk) = p.ok.toNat := sample_of_output (by rw [State.output, h]; rfl)
  rw [evalExpr_eq_const_ne_zero_iff, value]
  cases p.ok <;> decide

/-- SCRUB's second jump is taken exactly on a codeword. -/
theorem decStatus_eq_zero_holds_iff {s : State} {p : DecPorts} (h : s.dec = some p) :
    evalExpr s (.eq (.port .decStatus) (.const 0)) ≠ 0 ↔ p.status = .noError := by
  have value : evalExpr s (.port .decStatus) = p.status.code.toNat := sample_of_output (by rw [State.output, h]; rfl)
  rw [evalExpr_eq_const_ne_zero_iff, value]
  cases p.status <;> decide

theorem evalExpr_decData {s : State} {p : DecPorts} (h : s.dec = some p) :
    evalExpr s (.port .decData) = p.data.toNat := sample_of_output (by rw [State.output, h]; rfl)

/-- What follows SCRUB's READ, which has driven the ports `p`: one jump, two, or none and a WRITE, ending where SCRUB
ends, with memory unchanged or the codeword of `d` rewritten at the address. -/
theorem scrub_after_read {s : State} {a : HExpr} {h : HostVar} {rest : List HostStep} {n : Nat} {p : DecPorts}
    {d : DataWord}
    (hd : s.script.drop s.hpc = .ifGoto (.eq (.port .decOk) (.const 0)) n ::
      .ifGoto (.eq (.port .decStatus) (.const 0)) n :: (writeSteps a (.port .decData) h ++ rest))
    (hn : n - 1 = s.hpc + 4) (hp : s.dec = some p) (hdata : p.ok = true → p.data = d) (ha : ExprStays a s [h]) :
    ∃ (k : Nat) (t : State), k ≤ 4 ∧ runSteps k s = .next t ∧ t.hpc = s.hpc + 4 ∧
      (t.mem = s.mem ∨ t.mem = Table.write s.mem (evalExpr s a) (zextRaw (encodeData d))) := by
  have first_holds := decOk_eq_zero_holds_iff hp
  have second_holds := decStatus_eq_zero_holds_iff (s := s.advance) hp
  by_cases hok : p.ok = false
  · have jump := step_ifGoto_taken (fetch_of_drop hd) (first_holds.2 hok)
    exact ⟨1, _, by omega, runSteps_one jump, hn, .inl rfl⟩
  have first_falls_through : step s = .next s.advance :=
    step_ifGoto_not_taken (fetch_of_drop hd) (not_not.1 (mt first_holds.1 hok))
  have at_second_jump := drop_of_drop_append (t := s.advance) (steps := [_]) hd rfl rfl
  by_cases hst : p.status = .noError
  · have jump := step_ifGoto_taken (fetch_of_drop at_second_jump) (second_holds.2 hst)
    exact ⟨2, _, by omega, runSteps_two first_falls_through jump, hn, .inl rfl⟩
  have second_falls_through : step s.advance = .next s.advance.advance :=
    step_ifGoto_not_taken (fetch_of_drop at_second_jump) (not_not.1 (mt second_holds.1 hst))
  have at_write := drop_of_drop_append (t := s.advance.advance) (steps := [_]) at_second_jump rfl rfl
  have value : evalExpr s.advance.advance (.port .decData) = d.toNat :=
    (evalExpr_decData (s := s.advance.advance) hp).trans
      (congrArg BitVec.toNat (hdata (Bool.eq_true_of_not_eq_false hok)))
  have written := run_writeSteps at_write value (ha.of_agree fun _ _ => rfl)
  rw [ha s.advance.advance fun _ _ => rfl] at written
  have run := (runSteps_add 2 (runSteps_two first_falls_through second_falls_through)).trans written
  exact ⟨4, _, le_rfl, run, rfl, .inr (writeState_mem _ _ _ _)⟩

/-- Settles O56: SCRUB's READ decodes the codeword with at most two bits inverted, so the data it rewrites, if it does,
is the codeword's. -/
theorem scrubKeepsTheStoredCodeword : Obligations.ScrubKeepsTheStoredCodeword := by
  intro s a d g r h rest hd ha hstored
  rw [scrubSteps, List.append_assoc, List.append_assoc] at hd
  let s' := readState (evalExpr s a) r s
  have at_jump : s'.script.drop s'.hpc = _ :=
    drop_of_drop_append hd (readState_script (evalExpr s a) r s) (readState_hpc (evalExpr s a) r s)
  obtain ⟨m, high, x, hle, hdec⟩ := exists_mask_readState_dec r hstored
  have agree : ∀ k, k ∉ [h, r] → Table.read s'.vars k = Table.read s.vars k := fun k hk =>
    readState_vars_other _ s fun hkr => hk (by simp [hkr])
  obtain ⟨k, t, hk, hrun, hhpc, hmem⟩ := scrub_after_read at_jump rfl hdec (decodeRaw_data_of_ok d high x hle)
    ((ha.of_agree agree).mono (by simp))
  rw [ha s' agree, readState_mem] at hmem
  have run : runSteps (2 + k) s = .next t := (runSteps_add k (run_readSteps hd)).trans hrun
  rcases hmem with hmem | hmem
  · exact ⟨2 + k, t, _, by omega, run, hhpc, hmem ▸ hstored, rfl, .inl rfl, fun b _ => by rw [hmem]⟩
  · refine ⟨2 + k, t, zextRaw (encodeData d), by omega, run, hhpc, ?_, rfl, .inr rfl, fun b hb => ?_⟩
    · rw [hmem, Table.read_write_same]
    · rw [hmem, Table.read_write_other _ _ hb]

end Sys2Proof.Machine
end
